-- ==== Sys2Proof/Word.lean ====
section
/-! DEFINITION. The bit-vector types of the machine, and the fixed widths they rest on. -/

namespace Sys2Proof

/-- A byte of memory or of an instruction (10_state.md R32). -/
abbrev Byte := BitVec 8

/-- A 64-bit value: a general register, a linear address, one vector element (10_state.md R24, R28, R29). -/
abbrev Word := BitVec 64

/-- A vector register of `MAX_VL` = 512 bits (00_scope.md R6, 10_state.md R20). -/
abbrev Zmm := BitVec 512

end Sys2Proof
end

