-- ==== Sys2Proof/Config.lean ====
section
/-! DEFINITION. What an implementation fixes: the parameters of 00_scope.md R6 and the model's one free value. -/

namespace Sys2Proof

/-- `VA_BITS` (00_scope.md R6): how many linear-address bits are implemented, which decides the canonical addresses
(92_eei_decisions.md D10). The spec leaves it open; State holds it, so every statement covers both values. -/
inductive VaBits where
  | bits48
  | bits57
deriving DecidableEq, Repr

/-- `IMM_HI_POLICY` (00_scope.md R6, 30_encoding.md R84, 93_implementation_defined.md U2): what `imm8[7:4] != 0` does.
State holds it; the spec takes `refuse`. -/
inductive ImmHiPolicy where
  /-- The model gives the encoding no meaning: the value 00_scope.md R6 takes. -/
  | refuse
  /-- Execute as if `imm8[7:4]` were zero: the alternative R84 describes. -/
  | ignore
  /-- Raise `#UD`: the third alternative, named by 93_implementation_defined.md U2. -/
  | ud
deriving DecidableEq, Repr

/-- A vector length, `VL` = 128, 256 or 512 (00_scope.md glossary; 30_encoding.md R85). -/
inductive VL where
  | v128
  | v256
  | v512
deriving DecidableEq, Repr

namespace Config

/-- `NVREG`, the number of vector registers (00_scope.md R6, 10_state.md R20). -/
abbrev NVREG : Nat := 32

/-- `NKREG`, the number of opmask registers (00_scope.md R6, 10_state.md R22). -/
abbrev NKREG : Nat := 8

/-- `KW`, the width of an opmask register (00_scope.md R6, 10_state.md R22). -/
abbrev KW : Nat := 64

/-- The number of general registers (10_state.md R29). -/
abbrev NGPR : Nat := 16

/-- The length of the longest instruction in bytes (30_encoding.md R71). -/
abbrev maxLength : Nat := 12

/-- The free choice among several faulting elements of one instruction: "the one reported is not fixed: any of them may
be (a draw)" (60_exceptions.md R159). It has no body, so no proof knows what it answers. Its arguments are State's
`drawSeed` and the number of candidates; the position it answers is taken modulo that number. Log 11. -/
opaque faultDraw : Nat → Nat → Nat

end Config

end Sys2Proof
end

