-- ==== Sys2Proof/Syntax.lean ====
section
/-! DEFINITION. The instructions: one constructor for each of the 26 rows of spec/opcode_table.json, and their operands.
Register numbers and immediates are the bits the encoding holds (after un-inverting them, 30_encoding.md R78). -/

namespace Sys2Proof

/-- The number of a vector register, 0 to 31 (30_encoding.md R78). -/
abbrev VReg := BitVec 5

/-- The number of a general register, 0 to 15 (30_encoding.md R78). -/
abbrev GReg := BitVec 4

/-- The EVEX fields and the immediate that every row has (30_encoding.md R73 to R75, R83). The reserved fields stay as
stored, because the checks of R88 and R89 read them. -/
structure Evex where
  /-- Destination vector register `d` (operand 1, `ModRM:reg`). -/
  dest : VReg
  /-- `EVEX.aaa`: the writemask register, 0 for no writemask (R87). -/
  aaa  : BitVec 3
  /-- `EVEX.z`: zeroing (true) or merging (false) (R87). -/
  z    : Bool
  /-- `EVEX.vvvv` as stored, legal only as 1111 (R74, R88). -/
  vvvv : BitVec 4
  /-- The bit V' as stored, legal only as 1 (R75, R89). -/
  vp   : Bool
  /-- The immediate byte (R83). -/
  imm8 : Byte
deriving DecidableEq, Repr

/-- A scaled index register of a SIB byte (30_encoding.md R79). -/
structure Index where
  reg   : GReg
  scale : BitVec 2
deriving DecidableEq, Repr

/-- A base register, alone or inside a SIB byte with an optional index (30_encoding.md R78, R79). -/
inductive BaseForm where
  | reg (base : GReg)
  | sib (base : GReg) (index : Option Index)
deriving DecidableEq, Repr

/-- A memory operand with `mod = 00` (30_encoding.md R71, R79). -/
inductive Addr00 where
  /-- Base register, with or without a SIB byte, and no displacement. -/
  | plain (form : BaseForm)
  /-- RIP-relative: `rm = 101`. -/
  | rip (disp : BitVec 32)
  /-- SIB with `base = 101`: no base register, a 32-bit displacement. -/
  | noBase (index : Option Index) (disp : BitVec 32)
deriving DecidableEq, Repr

/-- A memory operand with `mod = 01`: an 8-bit displacement, to be scaled (30_encoding.md R81, R82). -/
structure Addr01 where
  form : BaseForm
  disp : BitVec 8
deriving DecidableEq, Repr

/-- A memory operand with `mod = 10`: a 32-bit displacement (30_encoding.md R81). -/
structure Addr10 where
  form : BaseForm
  disp : BitVec 32
deriving DecidableEq, Repr

/-- The instructions, in the order of spec/opcode_table.json: `VGETMANTPD` in 22 rows (40_vgetmantpd.md R123 to R126)
and the four reserved rows `UD_reserved_LL_11` (30_encoding.md R91). -/
inductive Instr where
  /-- `xmm1 {k1}{z}, xmm2, imm8` -/
  | xmmReg (e : Evex) (src : VReg)
  /-- `xmm1 {k1}{z}, m128, imm8`, mod = 00 -/
  | xmmMem00 (e : Evex) (a : Addr00)
  /-- `xmm1 {k1}{z}, m128, imm8`, mod = 01 -/
  | xmmMem01 (e : Evex) (a : Addr01)
  /-- `xmm1 {k1}{z}, m128, imm8`, mod = 10 -/
  | xmmMem10 (e : Evex) (a : Addr10)
  /-- `xmm1 {k1}{z}, m64bcst, imm8`, mod = 00 -/
  | xmmBcst00 (e : Evex) (a : Addr00)
  /-- `xmm1 {k1}{z}, m64bcst, imm8`, mod = 01 -/
  | xmmBcst01 (e : Evex) (a : Addr01)
  /-- `xmm1 {k1}{z}, m64bcst, imm8`, mod = 10 -/
  | xmmBcst10 (e : Evex) (a : Addr10)
  /-- `ymm1 {k1}{z}, ymm2, imm8` -/
  | ymmReg (e : Evex) (src : VReg)
  /-- `ymm1 {k1}{z}, m256, imm8`, mod = 00 -/
  | ymmMem00 (e : Evex) (a : Addr00)
  /-- `ymm1 {k1}{z}, m256, imm8`, mod = 01 -/
  | ymmMem01 (e : Evex) (a : Addr01)
  /-- `ymm1 {k1}{z}, m256, imm8`, mod = 10 -/
  | ymmMem10 (e : Evex) (a : Addr10)
  /-- `ymm1 {k1}{z}, m64bcst, imm8`, mod = 00 -/
  | ymmBcst00 (e : Evex) (a : Addr00)
  /-- `ymm1 {k1}{z}, m64bcst, imm8`, mod = 01 -/
  | ymmBcst01 (e : Evex) (a : Addr01)
  /-- `ymm1 {k1}{z}, m64bcst, imm8`, mod = 10 -/
  | ymmBcst10 (e : Evex) (a : Addr10)
  /-- `zmm1 {k1}{z}, zmm2, imm8` -/
  | zmmReg (e : Evex) (src : VReg)
  /-- `zmm1 {k1}{z}, m512, imm8`, mod = 00 -/
  | zmmMem00 (e : Evex) (a : Addr00)
  /-- `zmm1 {k1}{z}, m512, imm8`, mod = 01 -/
  | zmmMem01 (e : Evex) (a : Addr01)
  /-- `zmm1 {k1}{z}, m512, imm8`, mod = 10 -/
  | zmmMem10 (e : Evex) (a : Addr10)
  /-- `zmm1 {k1}{z}, m64bcst, imm8`, mod = 00 -/
  | zmmBcst00 (e : Evex) (a : Addr00)
  /-- `zmm1 {k1}{z}, m64bcst, imm8`, mod = 01 -/
  | zmmBcst01 (e : Evex) (a : Addr01)
  /-- `zmm1 {k1}{z}, m64bcst, imm8`, mod = 10 -/
  | zmmBcst10 (e : Evex) (a : Addr10)
  /-- `zmm1 {k1}{z}, zmm2{sae}, imm8` (L'L ignored, R86, R126) -/
  | zmmSae (e : Evex) (src : VReg)
  /-- reserved L'L = 11, register source, b = 0 -/
  | udReg (e : Evex) (src : VReg)
  /-- reserved L'L = 11, memory source, mod = 00, any b -/
  | udMem00 (e : Evex) (b : Bool) (a : Addr00)
  /-- reserved L'L = 11, memory source, mod = 01, any b -/
  | udMem01 (e : Evex) (b : Bool) (a : Addr01)
  /-- reserved L'L = 11, memory source, mod = 10, any b -/
  | udMem10 (e : Evex) (b : Bool) (a : Addr10)
deriving DecidableEq, Repr

end Sys2Proof
end

