-- ==== Sys2Proof/WellFormed.lean ====
section
/-! DEFINITION. Which terms of Instr an encoding exists for: the address forms that 30_encoding.md R71 and R79 can say.
The reserved values of `vvvv`, V', `z` with `aaa`, and `imm8[7:4]` have encodings and are well formed; the checks that
reject them are part of each meaning (R88 to R91, R84). -/

namespace Sys2Proof

/-- The three bits of a register number that ModRM or SIB holds; the length tests use them alone (30_encoding.md R71). -/
def lowBits (r : GReg) : BitVec 3 := r.extractLsb' 0 3

/-- An index register is not number 0100: that number says "no index" (30_encoding.md R79). -/
def Index.wf (x : Index) : Bool := x.reg != 4#4

/-- `wf` of an optional index: an absent one is fine. -/
def indexWf : Option Index → Bool
  | none   => true
  | some x => x.wf

/-- A base form with a displacement: without a SIB byte the base's low bits are not 100, which announces one (R71). -/
def BaseForm.wf : BaseForm → Bool
  | .reg b   => lowBits b != 4#3
  | .sib _ x => indexWf x

/-- A base form with `mod = 00`: as `BaseForm.wf`, and the low bits are not 101, which announces a 32-bit displacement,
with or without a SIB byte (R71, R79). -/
def BaseForm.wf00 : BaseForm → Bool
  | .reg b   => lowBits b != 4#3 && lowBits b != 5#3
  | .sib b x => lowBits b != 5#3 && indexWf x

/-- The `mod = 00` addresses that an encoding exists for. -/
def Addr00.wf : Addr00 → Bool
  | .plain f    => f.wf00
  | .rip _      => true
  | .noBase x _ => indexWf x

/-- The `mod = 01` addresses that an encoding exists for. -/
def Addr01.wf (a : Addr01) : Bool := a.form.wf

/-- The `mod = 10` addresses that an encoding exists for. -/
def Addr10.wf (a : Addr10) : Bool := a.form.wf

/-- The instructions that an encoding exists for. -/
def Instr.wf : Instr → Bool
  | .xmmReg _ _ => true
  | .xmmMem00 _ a => a.wf
  | .xmmMem01 _ a => a.wf
  | .xmmMem10 _ a => a.wf
  | .xmmBcst00 _ a => a.wf
  | .xmmBcst01 _ a => a.wf
  | .xmmBcst10 _ a => a.wf
  | .ymmReg _ _ => true
  | .ymmMem00 _ a => a.wf
  | .ymmMem01 _ a => a.wf
  | .ymmMem10 _ a => a.wf
  | .ymmBcst00 _ a => a.wf
  | .ymmBcst01 _ a => a.wf
  | .ymmBcst10 _ a => a.wf
  | .zmmReg _ _ => true
  | .zmmMem00 _ a => a.wf
  | .zmmMem01 _ a => a.wf
  | .zmmMem10 _ a => a.wf
  | .zmmBcst00 _ a => a.wf
  | .zmmBcst01 _ a => a.wf
  | .zmmBcst10 _ a => a.wf
  | .zmmSae _ _ => true
  | .udReg _ _ => true
  | .udMem00 _ _ a => a.wf
  | .udMem01 _ _ a => a.wf
  | .udMem10 _ _ a => a.wf

/-- The EVEX fields of an instruction, whatever its row. -/
def Instr.evex : Instr → Evex
  | .xmmReg e _ => e
  | .xmmMem00 e _ => e
  | .xmmMem01 e _ => e
  | .xmmMem10 e _ => e
  | .xmmBcst00 e _ => e
  | .xmmBcst01 e _ => e
  | .xmmBcst10 e _ => e
  | .ymmReg e _ => e
  | .ymmMem00 e _ => e
  | .ymmMem01 e _ => e
  | .ymmMem10 e _ => e
  | .ymmBcst00 e _ => e
  | .ymmBcst01 e _ => e
  | .ymmBcst10 e _ => e
  | .zmmReg e _ => e
  | .zmmMem00 e _ => e
  | .zmmMem01 e _ => e
  | .zmmMem10 e _ => e
  | .zmmBcst00 e _ => e
  | .zmmBcst01 e _ => e
  | .zmmBcst10 e _ => e
  | .zmmSae e _ => e
  | .udReg e _ => e
  | .udMem00 e _ _ => e
  | .udMem01 e _ _ => e
  | .udMem10 e _ _ => e

end Sys2Proof
end

