-- ==== Sys2Proof/Decode.lean ====
section
/-! DEFINITION. The decoder, total on any list of bytes and rejecting by name; the instruction lengths; the encoder, from
the same layout; and the host's question about a table word. Rules: 30_encoding.md R70 to R97. -/

namespace Sys2Proof

/-! ## Outcomes of decoding -/

/-- Why a byte sequence is not this instruction (30_encoding.md R95 steps 1, 3, 4, 5; R96: the model refuses it). -/
inductive Reject where
  /-- Step 1: the first byte is not `0x62` (a legacy byte before it is this case too, R92). -/
  | notEvex
  /-- Step 3: `P0[3:0]` is not `0011`: another opcode map, or reserved bits set. -/
  | otherMap
  /-- Step 4: not `66.W1`, or the fixed bit of P1 is 0. -/
  | otherForm
  /-- Step 5: the opcode byte is not `0x26`. -/
  | otherOpcode
deriving DecidableEq, Repr

/-- What decoding a list of bytes answers. -/
inductive DecodeResult where
  /-- The instruction, and the bytes after it. -/
  | ok (i : Instr) (rest : List Byte)
  /-- Not this instruction. -/
  | rejected (why : Reject)
  /-- The bytes end before the instruction does. -/
  | truncated
deriving DecidableEq, Repr

/-! ## Pieces of the decoder -/

/-- An 8-bit displacement or the immediate: the next byte (R70). -/
def takeByte : List Byte → Option (Byte × List Byte)
  | []      => none
  | b :: bs => some (b, bs)

/-- A 32-bit displacement, least significant byte first (20_memory.md R51). -/
def takeDisp32 : List Byte → Option (BitVec 32 × List Byte)
  | b0 :: b1 :: b2 :: b3 :: bs => some (b3 ++ b2 ++ b1 ++ b0, bs)
  | _ => none

/-- `R' ++ R ++ ModRM.reg`: the destination number; R and R' are stored inverted (R73, R78). -/
def destOf (p0 modrm : Byte) : VReg :=
  ~~~ p0.extractLsb' 4 1 ++ ~~~ p0.extractLsb' 7 1 ++ modrm.extractLsb' 3 3

/-- `X ++ B ++ ModRM.rm`: the number of a register source (R78). -/
def srcOf (p0 modrm : Byte) : VReg :=
  ~~~ p0.extractLsb' 6 1 ++ ~~~ p0.extractLsb' 5 1 ++ modrm.extractLsb' 0 3

/-- `B ++ low`: a base register number from the three bits of ModRM.rm or SIB.base (R78). -/
def baseOf (p0 : Byte) (low : BitVec 3) : GReg := ~~~ p0.extractLsb' 5 1 ++ low

/-- `X ++ SIB.index`: the index register number (R78). -/
def indexNumber (p0 sib : Byte) : GReg := ~~~ p0.extractLsb' 6 1 ++ sib.extractLsb' 3 3

/-- The index of a SIB byte; number 0100 means none (R79). -/
def indexOf (p0 sib : Byte) : Option Index :=
  if indexNumber p0 sib = 4#4 then none else some ⟨indexNumber p0 sib, sib.extractLsb' 6 2⟩

/-- A `mod = 00` address, with the bytes after it (R71, R79, R81). -/
def takeAddr00 (p0 modrm : Byte) (bs : List Byte) : Option (Addr00 × List Byte) :=
  if modrm.extractLsb' 0 3 = 4#3 then
    match bs with
    | []        => none
    | sib :: bs =>
      if sib.extractLsb' 0 3 = 5#3 then
        (takeDisp32 bs).map fun d => (.noBase (indexOf p0 sib) d.1, d.2)
      else some (.plain (.sib (baseOf p0 (sib.extractLsb' 0 3)) (indexOf p0 sib)), bs)
  else if modrm.extractLsb' 0 3 = 5#3 then (takeDisp32 bs).map fun d => (.rip d.1, d.2)
  else some (.plain (.reg (baseOf p0 (modrm.extractLsb' 0 3))), bs)

/-- The base form of a `mod = 01` or `mod = 10` address, with the bytes after it (R71, R79). -/
def takeBaseForm (p0 modrm : Byte) (bs : List Byte) : Option (BaseForm × List Byte) :=
  if modrm.extractLsb' 0 3 = 4#3 then
    match bs with
    | []        => none
    | sib :: bs => some (.sib (baseOf p0 (sib.extractLsb' 0 3)) (indexOf p0 sib), bs)
  else some (.reg (baseOf p0 (modrm.extractLsb' 0 3)), bs)

/-- A `mod = 01` address, with the bytes after it (R81). -/
def takeAddr01 (p0 modrm : Byte) (bs : List Byte) : Option (Addr01 × List Byte) :=
  (takeBaseForm p0 modrm bs).bind fun f => (takeByte f.2).map fun d => (⟨f.1, d.1⟩, d.2)

/-- A `mod = 10` address, with the bytes after it (R81). -/
def takeAddr10 (p0 modrm : Byte) (bs : List Byte) : Option (Addr10 × List Byte) :=
  (takeBaseForm p0 modrm bs).bind fun f => (takeDisp32 f.2).map fun d => (⟨f.1, d.1⟩, d.2)

/-- The EVEX fields of `P0`, `P1`, `P2`, `ModRM` and the immediate (R73 to R75, R83). -/
def evexOf (p0 p1 p2 modrm imm8 : Byte) : Evex :=
  { dest := destOf p0 modrm
    aaa  := p2.extractLsb' 0 3
    z    := p2.getLsbD 7
    vvvv := p1.extractLsb' 3 4
    vp   := p2.getLsbD 3
    imm8 := imm8 }

/-- `L'L` = 00, 01, 10 is a vector length; 11 is reserved (R85, R91). -/
def lengthOf (ll : BitVec 2) : Option VL :=
  if ll = 0#2 then some .v128 else if ll = 1#2 then some .v256 else if ll = 2#2 then some .v512 else none

/-- The row of a register source: with `b = 1` the `{sae}` form, whatever `L'L` holds (R86, R95 step 12). -/
def regInstr (b : Bool) (ll : Option VL) (e : Evex) (src : VReg) : Instr :=
  match b, ll with
  | true,  _          => .zmmSae e src
  | false, some .v128 => .xmmReg e src
  | false, some .v256 => .ymmReg e src
  | false, some .v512 => .zmmReg e src
  | false, none       => .udReg e src

/-- The row of a `mod = 00` memory source (R86, R97). -/
def mem00Instr (b : Bool) (ll : Option VL) (e : Evex) (a : Addr00) : Instr :=
  match b, ll with
  | false, some .v128 => .xmmMem00 e a
  | true,  some .v128 => .xmmBcst00 e a
  | false, some .v256 => .ymmMem00 e a
  | true,  some .v256 => .ymmBcst00 e a
  | false, some .v512 => .zmmMem00 e a
  | true,  some .v512 => .zmmBcst00 e a
  | b,     none       => .udMem00 e b a

/-- The row of a `mod = 01` memory source (R86, R97). -/
def mem01Instr (b : Bool) (ll : Option VL) (e : Evex) (a : Addr01) : Instr :=
  match b, ll with
  | false, some .v128 => .xmmMem01 e a
  | true,  some .v128 => .xmmBcst01 e a
  | false, some .v256 => .ymmMem01 e a
  | true,  some .v256 => .ymmBcst01 e a
  | false, some .v512 => .zmmMem01 e a
  | true,  some .v512 => .zmmBcst01 e a
  | b,     none       => .udMem01 e b a

/-- The row of a `mod = 10` memory source (R86, R97). -/
def mem10Instr (b : Bool) (ll : Option VL) (e : Evex) (a : Addr10) : Instr :=
  match b, ll with
  | false, some .v128 => .xmmMem10 e a
  | true,  some .v128 => .xmmBcst10 e a
  | false, some .v256 => .ymmMem10 e a
  | true,  some .v256 => .ymmBcst10 e a
  | false, some .v512 => .zmmMem10 e a
  | true,  some .v512 => .zmmBcst10 e a
  | b,     none       => .udMem10 e b a

/-! ## The decoder -/

/-- Steps 6 and 7 of R95: ModRM, then SIB and displacement, then the immediate; and the row that `mod`, `b` and `L'L`
select (R97). -/
def decodeOperands (p0 p1 p2 modrm : Byte) (bs : List Byte) : Option (Instr × List Byte) :=
  if modrm.extractLsb' 6 2 = 3#2 then
    (takeByte bs).map fun m =>
      (regInstr (p2.getLsbD 4) (lengthOf (p2.extractLsb' 5 2)) (evexOf p0 p1 p2 modrm m.1) (srcOf p0 modrm), m.2)
  else if modrm.extractLsb' 6 2 = 0#2 then
    (takeAddr00 p0 modrm bs).bind fun a => (takeByte a.2).map fun m =>
      (mem00Instr (p2.getLsbD 4) (lengthOf (p2.extractLsb' 5 2)) (evexOf p0 p1 p2 modrm m.1) a.1, m.2)
  else if modrm.extractLsb' 6 2 = 1#2 then
    (takeAddr01 p0 modrm bs).bind fun a => (takeByte a.2).map fun m =>
      (mem01Instr (p2.getLsbD 4) (lengthOf (p2.extractLsb' 5 2)) (evexOf p0 p1 p2 modrm m.1) a.1, m.2)
  else
    (takeAddr10 p0 modrm bs).bind fun a => (takeByte a.2).map fun m =>
      (mem10Instr (p2.getLsbD 4) (lengthOf (p2.extractLsb' 5 2)) (evexOf p0 p1 p2 modrm m.1) a.1, m.2)

/-- Step 3 of R95: `P0[3:0]` = `0011`, map `0F3A` (R73). -/
def mapOk (p0 : Byte) : Bool := p0.extractLsb' 0 4 == 3#4

/-- Step 4 of R95: the fixed bit, `pp = 01` for `66`, and `W = 1` (R74). -/
def formOk (p1 : Byte) : Bool := p1.getLsbD 2 && p1.extractLsb' 0 2 == 1#2 && p1.getLsbD 7

/-- Steps 5 to 7 of R95: the opcode byte `0x26`, ModRM and the rest. -/
def decodeOpcode (p0 p1 p2 : Byte) : List Byte → DecodeResult
  | [] => .truncated
  | op :: bs =>
    if op = 0x26#8 then
      match bs with
      | [] => .truncated
      | modrm :: bs =>
        match decodeOperands p0 p1 p2 modrm bs with
        | some (i, rest) => .ok i rest
        | none           => .truncated
    else .rejected .otherOpcode

/-- Steps 2 to 4 of R95: the three EVEX payload bytes. -/
def decodePayload : List Byte → DecodeResult
  | p0 :: p1 :: p2 :: bs =>
    if mapOk p0 then
      if formOk p1 then decodeOpcode p0 p1 p2 bs else .rejected .otherForm
    else .rejected .otherMap
  | _ => .truncated

/-- The decode procedure of 30_encoding.md R95, steps 1 to 7, 15 and 16. The checks of steps 8 to 14 belong to the
row that these steps find (R97: "A row matching is not the end of decoding"); each row's meaning makes them. -/
def decode : List Byte → DecodeResult
  | [] => .truncated
  | b0 :: bs => if b0 = 0x62#8 then decodePayload bs else .rejected .notEvex

/-! ## Lengths -/

/-- Bytes of SIB that a base form takes (R71). -/
def baseFormSize : BaseForm → Nat
  | .reg _   => 0
  | .sib _ _ => 1

/-- Bytes of SIB and displacement of a `mod = 00` address (R71). -/
def addr00Size : Addr00 → Nat
  | .plain f    => baseFormSize f
  | .rip _      => 4
  | .noBase _ _ => 5

/-- Bytes of SIB and displacement of a `mod = 01` address (R71). -/
def addr01Size (a : Addr01) : Nat := baseFormSize a.form + 1

/-- Bytes of SIB and displacement of a `mod = 10` address (R71). -/
def addr10Size (a : Addr10) : Nat := baseFormSize a.form + 4

/-- `len` of an instruction with a register source: 62 P0 P1 P2 26 ModRM imm8 (R71). -/
def lenReg : Nat := 7

/-- `len` with a `mod = 00` memory source (R71). -/
def len00 (a : Addr00) : Nat := 7 + addr00Size a

/-- `len` with a `mod = 01` memory source (R71). -/
def len01 (a : Addr01) : Nat := 7 + addr01Size a

/-- `len` with a `mod = 10` memory source (R71). -/
def len10 (a : Addr10) : Nat := 7 + addr10Size a

/-- The length of an instruction in bytes (R71). -/
def instrLength : Instr → Nat
  | .xmmReg _ _ => lenReg
  | .xmmMem00 _ a => len00 a
  | .xmmMem01 _ a => len01 a
  | .xmmMem10 _ a => len10 a
  | .xmmBcst00 _ a => len00 a
  | .xmmBcst01 _ a => len01 a
  | .xmmBcst10 _ a => len10 a
  | .ymmReg _ _ => lenReg
  | .ymmMem00 _ a => len00 a
  | .ymmMem01 _ a => len01 a
  | .ymmMem10 _ a => len10 a
  | .ymmBcst00 _ a => len00 a
  | .ymmBcst01 _ a => len01 a
  | .ymmBcst10 _ a => len10 a
  | .zmmReg _ _ => lenReg
  | .zmmMem00 _ a => len00 a
  | .zmmMem01 _ a => len01 a
  | .zmmMem10 _ a => len10 a
  | .zmmBcst00 _ a => len00 a
  | .zmmBcst01 _ a => len01 a
  | .zmmBcst10 _ a => len10 a
  | .zmmSae _ _ => lenReg
  | .udReg _ _ => lenReg
  | .udMem00 _ _ a => len00 a
  | .udMem01 _ _ a => len01 a
  | .udMem10 _ _ a => len10 a

/-! ## The encoder -/

/-- A 32-bit displacement as bytes, least significant first (20_memory.md R51). -/
def disp32Bytes (d : BitVec 32) : List Byte :=
  [d.extractLsb' 0 8, d.extractLsb' 8 8, d.extractLsb' 16 8, d.extractLsb' 24 8]

/-- `SIB`: scale, index, base (R79); the stored index of "none" is 100 with scale 0. -/
def sibByte (low : BitVec 3) : Option Index → Byte
  | none   => 0#2 ++ 4#3 ++ low
  | some x => x.scale ++ x.reg.extractLsb' 0 3 ++ low

/-- Bit 3 of an index number, 0 when there is none (R78, R79). -/
def indexHigh : Option Index → BitVec 1
  | none   => 0#1
  | some x => x.reg.extractLsb' 3 1

/-- What an operand gives to the encoding: the bits X and B (not yet inverted), `ModRM.mod`, `ModRM.rm`, and the bytes
between ModRM and the immediate. -/
structure RmFields where
  x    : BitVec 1
  b    : BitVec 1
  mod  : BitVec 2
  rm   : BitVec 3
  tail : List Byte
deriving DecidableEq, Repr

/-- A register source (R78). -/
def rmOfReg (src : VReg) : RmFields :=
  ⟨src.extractLsb' 4 1, src.extractLsb' 3 1, 3#2, src.extractLsb' 0 3, []⟩

/-- A base form under a given `mod`, followed by displacement bytes (R71, R78, R79). -/
def rmOfBase (mod : BitVec 2) (disp : List Byte) : BaseForm → RmFields
  | .reg b   => ⟨0#1, b.extractLsb' 3 1, mod, lowBits b, disp⟩
  | .sib b x => ⟨indexHigh x, b.extractLsb' 3 1, mod, 4#3, sibByte (lowBits b) x :: disp⟩

/-- A `mod = 00` address (R71, R79). -/
def rmOf00 : Addr00 → RmFields
  | .plain f    => rmOfBase 0#2 [] f
  | .rip d      => ⟨0#1, 0#1, 0#2, 5#3, disp32Bytes d⟩
  | .noBase x d => ⟨indexHigh x, 0#1, 0#2, 4#3, sibByte 5#3 x :: disp32Bytes d⟩

/-- A `mod = 01` address (R81). -/
def rmOf01 (a : Addr01) : RmFields := rmOfBase 1#2 [a.disp] a.form

/-- A `mod = 10` address (R81). -/
def rmOf10 (a : Addr10) : RmFields := rmOfBase 2#2 (disp32Bytes a.disp) a.form

/-- `P0`: the inverted extension bits and map `0F3A` (R73). -/
def encodeP0 (e : Evex) (f : RmFields) : Byte :=
  ~~~ e.dest.extractLsb' 3 1 ++ ~~~ f.x ++ ~~~ f.b ++ ~~~ e.dest.extractLsb' 4 1 ++ 3#4

/-- `P1`: `W = 1`, the stored `vvvv`, the fixed 1 and `pp = 01` (R74). -/
def encodeP1 (e : Evex) : Byte := 1#1 ++ e.vvvv ++ 5#3

/-- `P2`: `z`, `L'L`, `b`, the stored V' and `aaa` (R75). -/
def encodeP2 (e : Evex) (ll : BitVec 2) (b : Bool) : Byte :=
  BitVec.ofBool e.z ++ ll ++ BitVec.ofBool b ++ BitVec.ofBool e.vp ++ e.aaa

/-- `ModRM` (R77). -/
def encodeModRM (e : Evex) (f : RmFields) : Byte := f.mod ++ e.dest.extractLsb' 0 3 ++ f.rm

/-- All the bytes of an instruction (R70). -/
def encodeWith (e : Evex) (ll : BitVec 2) (b : Bool) (f : RmFields) : List Byte :=
  [0x62#8, encodeP0 e f, encodeP1 e, encodeP2 e ll b, 0x26#8, encodeModRM e f] ++ f.tail ++ [e.imm8]

/-- The encoder. Bits that the decoder ignores are written as zero register bits (stored 1), scale 00, and, for
`{sae}`, `L'L = 00` (R78, R86). -/
def encode : Instr → List Byte
  | .xmmReg e s => encodeWith e 0#2 false (rmOfReg s)
  | .xmmMem00 e a => encodeWith e 0#2 false (rmOf00 a)
  | .xmmMem01 e a => encodeWith e 0#2 false (rmOf01 a)
  | .xmmMem10 e a => encodeWith e 0#2 false (rmOf10 a)
  | .xmmBcst00 e a => encodeWith e 0#2 true (rmOf00 a)
  | .xmmBcst01 e a => encodeWith e 0#2 true (rmOf01 a)
  | .xmmBcst10 e a => encodeWith e 0#2 true (rmOf10 a)
  | .ymmReg e s => encodeWith e 1#2 false (rmOfReg s)
  | .ymmMem00 e a => encodeWith e 1#2 false (rmOf00 a)
  | .ymmMem01 e a => encodeWith e 1#2 false (rmOf01 a)
  | .ymmMem10 e a => encodeWith e 1#2 false (rmOf10 a)
  | .ymmBcst00 e a => encodeWith e 1#2 true (rmOf00 a)
  | .ymmBcst01 e a => encodeWith e 1#2 true (rmOf01 a)
  | .ymmBcst10 e a => encodeWith e 1#2 true (rmOf10 a)
  | .zmmReg e s => encodeWith e 2#2 false (rmOfReg s)
  | .zmmMem00 e a => encodeWith e 2#2 false (rmOf00 a)
  | .zmmMem01 e a => encodeWith e 2#2 false (rmOf01 a)
  | .zmmMem10 e a => encodeWith e 2#2 false (rmOf10 a)
  | .zmmBcst00 e a => encodeWith e 2#2 true (rmOf00 a)
  | .zmmBcst01 e a => encodeWith e 2#2 true (rmOf01 a)
  | .zmmBcst10 e a => encodeWith e 2#2 true (rmOf10 a)
  | .zmmSae e s => encodeWith e 0#2 true (rmOfReg s)
  | .udReg e s => encodeWith e 3#2 false (rmOfReg s)
  | .udMem00 e b a => encodeWith e 3#2 b (rmOf00 a)
  | .udMem01 e b a => encodeWith e 3#2 b (rmOf01 a)
  | .udMem10 e b a => encodeWith e 3#2 b (rmOf10 a)

/-! ## A word of the opcode table as bytes -/

/-- The low `n` bytes of a number, least significant first. -/
def bytesLow (w : Nat) : Nat → List Byte
  | 0     => []
  | n + 1 => BitVec.ofNat 8 w :: bytesLow (w / 256) n

/-- The bytes of a table word, padded with zeros to the longest instruction. A word is read with the first byte in
bits 7:0 (the host's numbering); if that is not this instruction, it is read as the table itself packs its `match`,
first byte most significant (R97). At most one of the two readings decodes. Log 6. -/
def tableWordBytes (nbits w : Nat) : List Byte :=
  let pad := List.replicate (Config.maxLength - nbits / 8) (0#8)
  let low := bytesLow w (nbits / 8)
  match decode (low ++ pad) with
  | .ok _ _ => low ++ pad
  | _ =>
    match decode (low.reverse ++ pad) with
    | .ok _ _ => low.reverse ++ pad
    | _       => low ++ pad

/-- The instruction the decoder reads from a table word (log 6). -/
def decodeTableWord (nbits w : Nat) : Option Instr :=
  match decode (tableWordBytes nbits w) with
  | .ok i _ => some i
  | _       => none

end Sys2Proof
end

