-- ==== Sys2Proof/Machine/State.lean ====
section
/-! DEFINITION. The machine's state, all of it plain data; the reasons a step can stop; the state after reset. -/

namespace Sys2Proof.Machine

/-! ## Why a step stops -/

/-- The exceptions an instruction can raise (60_exceptions.md R150 to R157). Each is a terminal fault: no write of the
step is kept (R158). Safe: the hardware would run a handler, about which the model proves nothing. -/
inductive Fault where
  /-- `#UD`. Raised by the reserved-encoding, feature and enablement checks (R150, R151, R155), by an unmasked
  floating-point exception when OSXMMEXCPT is 0 (R154), and in real-address mode (10_state.md R35). Safe. -/
  | invalidOpcode
  /-- `#NM`. Raised when CR0.TS is 1 (R155). Safe. -/
  | deviceNotAvailable
  /-- `#SS(0)`. Raised by a data read at a non-canonical address with the stack segment (R156). Safe. -/
  | stackSegment
  /-- `#GP(0)`. Raised by any other access at a non-canonical address (R156). Safe. -/
  | generalProtection
  /-- `#PF`. Raised by an access that the memory map does not permit (R156). Safe. -/
  | pageFault
  /-- `#XM`. Raised by an unmasked Invalid or Denormal when OSXMMEXCPT is 1 (R154). Safe. -/
  | simdFloatingPoint
deriving DecidableEq, Repr

/-- Why the model gives a step no meaning (00_scope.md R13). Nothing may be concluded about the hardware: safe. -/
inductive Refusal where
  /-- An arm of `exec` that has no meaning yet. No arm of this package answers it. Safe. -/
  | notModelled (mnemonic : String)
  /-- Raised by the fetch of a step: the bytes are not this instruction (30_encoding.md R92, R95, R96). Safe. -/
  | notInScope
  /-- Raised by the checks of every `VGETMANTPD` row: `imm8[7:4] != 0` under the policy `refuse` (R84). Safe. -/
  | immHighBits
  /-- Raised by the fetch of a step and by every row: a 32-bit mode (60_exceptions.md R164). Safe. -/
  | notMode64
  /-- Raised by a read of a device region, whose behaviour the spec does not give (20_memory.md R57). Safe. -/
  | deviceMemory
deriving DecidableEq, Repr

/-- What an operation of the machine answers: a value, a fault or a refusal. -/
abbrev Result (α : Type) := Host.Outcome α Fault Refusal

/-! ## The parts of the state -/

/-- The processor mode (10_state.md R31 row "mode", R35; 60_exceptions.md R164). -/
inductive Mode where
  /-- 64-bit mode, the one that 92_eei_decisions.md D1 models. -/
  | bits64
  /-- Legacy protected or compatibility mode: refused. -/
  | bits32
  /-- Real-address mode, the mode after a power-up reset. -/
  | realAddress
deriving DecidableEq, Repr

/-- The enablement and control state that the instruction reads and never writes (10_state.md R31, R35). -/
structure Control where
  /-- CR0; its bit TS is read. -/
  cr0 : Word
  /-- CR4; its bits OSXSAVE and OSXMMEXCPT are read. -/
  cr4 : Word
  /-- XCR0; bits 2:1 and 7:5 are read. -/
  xcr0 : Word
  /-- CPUID.AVX512F (`HAS_AVX512F`). -/
  avx512f : Bool
  /-- CPUID.AVX512VL (`HAS_AVX512VL`). -/
  avx512vl : Bool
  /-- The processor mode. -/
  mode : Mode
  /-- The privilege level; no instruction reads or writes it (60_exceptions.md R164). -/
  cpl : BitVec 2
deriving DecidableEq, Repr

/-- What stands at an address (20_memory.md R57, R58). -/
inductive RegionKind where
  /-- Ordinary memory: reads have no side effect. -/
  | ordinary
  /-- A device: its reads are outside the spec. -/
  | device
deriving DecidableEq, Repr

/-- A run of addresses with one kind and permissions: plain data for the parameter MemFault (20_memory.md R56). -/
structure Region where
  base  : Nat
  size  : Nat
  kind  : RegionKind
  /-- A data read does not page-fault here. -/
  read  : Bool
  /-- An instruction fetch does not page-fault here. -/
  fetch : Bool
deriving DecidableEq, Repr

/-- The parameters of the platform, fixed for a run (00_scope.md R6), and the model's own draw seed. -/
structure Platform where
  /-- The memory map; the first region that holds an address decides, and an address in none page-faults (log 8). -/
  map : List Region
  /-- `VA_BITS` (log 10). -/
  vaBits : VaBits
  /-- `IMM_HI_POLICY` (log 13). -/
  immHi : ImmHiPolicy
  /-- The MODEL's own field: the first argument of `Config.faultDraw` (log 11). -/
  drawSeed : Nat
deriving DecidableEq, Repr

/-- Memory: bytes by linear address, addresses strictly rising, no byte equal to what an unlisted address reads as. -/
abbrev Memory := List Host.Cell

/-- What an address that is not listed reads as (DESIGN CHOICE, log 4). -/
def unlistedByte : Byte := 0#8

/-- The state of the one logical processor and its memory (10_state.md section 1). -/
structure State where
  /-- zmm0 to zmm31 (R20); ymm and xmm are their low parts (R21). -/
  zmm : Vector Zmm Config.NVREG
  /-- k0 to k7 (R22). -/
  k : Vector (BitVec Config.KW) Config.NKREG
  /-- MXCSR (R26, R27). -/
  mxcsr : BitVec 32
  /-- RIP: the linear address of the next instruction (R28). -/
  pc : Word
  /-- RAX, RCX, RDX, RBX, RSP, RBP, RSI, RDI, R8 to R15 (R29). -/
  gpr : Vector Word Config.NGPR
  /-- RFLAGS; never read or written (R30). -/
  rflags : Word
  /-- Enablement and control state (R31). -/
  ctl : Control
  /-- Memory (R32). -/
  mem : Memory
  /-- Platform parameters (00_scope.md R6). -/
  plat : Platform
deriving DecidableEq, Repr

/-- The machine after a power-up reset: the table of 10_state.md R35 (PRESUMED, the family's values; log 2), and for
what the table leaves out the values that log 3, 4, 9, 10, 12, 13 and 36 name. In this state the instruction raises
`#UD` (R35); software must first do what 70_reset_and_hazards.md R183 says (log 5). -/
def State.reset : State :=
  { zmm := Vector.replicate Config.NVREG 0#512
    k := Vector.replicate Config.NKREG 0#64
    mxcsr := 0x00001F80#32
    pc := 0xFFFFFFF0#64
    gpr := Vector.replicate Config.NGPR 0#64
    rflags := 0x2#64
    ctl :=
      { cr0 := 0x60000010#64
        cr4 := 0#64
        xcr0 := 1#64
        avx512f := true
        avx512vl := true
        mode := .realAddress
        cpl := 0#2 }
    mem := []
    plat :=
      { map := [{ base := 0, size := 2 ^ 64, kind := .ordinary, read := true, fetch := true }]
        vaBits := .bits48
        immHi := .refuse
        drawSeed := 0 } }

end Sys2Proof.Machine
end

