-- ==== Sys2Proof/Machine/Ops.lean ====
section
/-! DEFINITION. The named operations over the state: sequencing, raising an exception, registers, memory, MemRead,
control bits, and what software does between reset and launch. -/

namespace Sys2Proof.Machine

/-! ## Sequencing and exceptions -/

/-- Go on with the value, or stop with the fault or refusal. -/
def andThen {α β : Type} (r : Result α) (f : α → Result β) : Result β :=
  match r with
  | .next v    => f v
  | .fault e   => .fault e
  | .refused q => .refused q

/-- `raise`: taking an exception. It ends the step with the named terminal fault and no write of the step is kept
(00_scope.md R9, 60_exceptions.md R158). There is no entry and no return to model (R161, R162; 00_scope.md R4). -/
def raise {α : Type} (e : Fault) : Result α := .fault e

/-- `refuse`: the model gives the encoding no meaning (00_scope.md R9, R13). -/
def refuse {α : Type} (q : Refusal) : Result α := .refused q

/-- The exception's vector number, for orientation (60_exceptions.md R157). -/
def Fault.vector : Fault → Nat
  | .invalidOpcode      => 6
  | .deviceNotAvailable => 7
  | .stackSegment       => 12
  | .generalProtection  => 13
  | .pageFault          => 14
  | .simdFloatingPoint  => 19

/-- Whether the exception has an error code (60_exceptions.md R157); its bits are not modelled (R156). -/
def Fault.hasErrorCode : Fault → Bool
  | .invalidOpcode      => false
  | .deviceNotAvailable => false
  | .stackSegment       => true
  | .generalProtection  => true
  | .pageFault          => true
  | .simdFloatingPoint  => false

/-! ## Registers -/

/-- `zmm[i]` (00_scope.md R9). -/
def State.vreg (s : State) (r : VReg) : Zmm := s.zmm[r.toNat]'r.isLt

/-- `zmm[i] <- v`, all 512 bits (00_scope.md R9, 10_state.md R21). -/
def State.setVreg (s : State) (r : VReg) (v : Zmm) : State := { s with zmm := s.zmm.set r.toNat v r.isLt }

/-- `k[i]` (00_scope.md R9). -/
def State.kreg (s : State) (r : BitVec 3) : BitVec Config.KW := s.k[r.toNat]'r.isLt

/-- `gpr[i]` (00_scope.md R9). -/
def State.greg (s : State) (r : GReg) : Word := s.gpr[r.toNat]'r.isLt

/-- Write MXCSR. -/
def State.setMxcsr (s : State) (m : BitVec 32) : State := { s with mxcsr := m }

/-- `pc <- (pc + len) mod 2^64` (10_state.md R28, 40_vgetmantpd.md R129). -/
def State.advance (s : State) (len : Nat) : State := { s with pc := s.pc + BitVec.ofNat 64 len }

/-- Replace the memory (a loader's doing; no instruction writes memory, 10_state.md R32). -/
def State.setMem (s : State) (m : Memory) : State := { s with mem := m }

/-! ## Control bits (10_state.md R31; the places of the bits in CR0 and CR4 are PRESUMED, log 7) -/

/-- `CR0.TS`. -/
def Control.ts (c : Control) : Bool := c.cr0.getLsbD 3

/-- `CR4.OSXSAVE`. -/
def Control.osxsave (c : Control) : Bool := c.cr4.getLsbD 18

/-- `CR4.OSXMMEXCPT`. -/
def Control.osxmmexcpt (c : Control) : Bool := c.cr4.getLsbD 10

/-- `XCR0[2:1] = 11b`: SSE and AVX state enabled. -/
def Control.xcr0Avx (c : Control) : Bool := c.xcr0.extractLsb' 1 2 == 3#2

/-- `XCR0[7:5] = 111b`: opmask, ZMM_Hi256 and Hi16_ZMM state enabled. -/
def Control.xcr0Avx512 (c : Control) : Bool := c.xcr0.extractLsb' 5 3 == 7#3

/-- What software has done when the launch premises hold (70_reset_and_hazards.md R182, R183): 64-bit mode (protected
mode and paging on in CR0), CR4.OSXSAVE set, XCR0 with bits 0, 1, 2, 5, 6, 7 set, CR0.TS and CR0.EM clear. The model
has no instruction that does it; `State.withFetchWord` uses it (log 5). -/
def State.boot (s : State) : State :=
  { s with ctl := { s.ctl with
      cr0 := (s.ctl.cr0 ||| 0x80000001#64) &&& ~~~ 0xC#64
      cr4 := s.ctl.cr4 ||| 0x40000#64
      xcr0 := s.ctl.xcr0 ||| 0xE7#64
      mode := .bits64 } }

/-! ## Bytes of memory -/

/-- One byte of memory (10_state.md R32); an unlisted address reads as `unlistedByte` (log 4). -/
def readByte (m : Memory) (a : Nat) : Byte :=
  match m with
  | []          => unlistedByte
  | (x, b) :: t => if x = a then b else readByte t a

/-- Write one byte and keep the canonical form: the list stays sorted, and writing what an unlisted address reads as
removes the entry. `MemWrite` of 00_scope.md R9; no instruction uses it. -/
def writeByte (m : Memory) (a : Nat) (v : Byte) : Memory :=
  match m with
  | [] => if v = unlistedByte then [] else [(a, v)]
  | (x, b) :: t =>
    if x < a then (x, b) :: writeByte t a v
    else if x = a then (if v = unlistedByte then t else (a, v) :: t)
    else (if v = unlistedByte then (x, b) :: t else (a, v) :: (x, b) :: t)

/-- Every listed address is at least `lo`, strictly rising, below 2^64, and lists another byte than `unlistedByte`. -/
def Memory.wfFrom (lo : Nat) : Memory → Bool
  | []          => true
  | (x, b) :: t => decide (lo ≤ x) && decide (x < 2 ^ 64) && b != unlistedByte && Memory.wfFrom (x + 1) t

/-- The canonical form of memory. -/
def Memory.wf (m : Memory) : Bool := Memory.wfFrom 0 m

/-- Store bytes at increasing addresses from `a`, modulo 2^64 (20_memory.md R51). -/
def placeBytes (m : Memory) (a : Word) : List Byte → Memory
  | []      => m
  | b :: bs => placeBytes (writeByte m a.toNat b) (a + 1#64) bs

/-! ## MemRead -/

/-- The access kinds of the parameter MemFault (20_memory.md R56). -/
inductive Access where
  | dataRead
  | fetch
deriving DecidableEq, Repr

/-- The default segment, which only chooses between `#SS` and `#GP` (30_encoding.md R79, 60_exceptions.md R156). -/
inductive Segment where
  | data
  | stack
deriving DecidableEq, Repr

/-- Bits 63:VA_BITS-1 are all equal (93_implementation_defined.md G16). -/
def canonical (v : VaBits) (a : Word) : Bool :=
  match v with
  | .bits48 => (a.extractLsb' 0 48).signExtend 64 == a
  | .bits57 => (a.extractLsb' 0 57).signExtend 64 == a

/-- The first region of the map that holds the address. -/
def regionAt (map : List Region) (a : Word) : Option Region :=
  map.find? fun r => decide (r.base ≤ a.toNat) && decide (a.toNat < r.base + r.size)

/-- The memory map permits this access to this byte. -/
def permitted (map : List Region) (acc : Access) (a : Word) : Bool :=
  match regionAt map a with
  | none   => false
  | some r =>
    match acc with
    | .dataRead => r.read
    | .fetch    => r.fetch

/-- The byte stands in a device region. -/
def inDevice (map : List Region) (a : Word) : Bool :=
  match regionAt map a with
  | none   => false
  | some r => r.kind == .device

/-- The addresses of the `n` bytes at `a`, modulo 2^64, lowest first (20_memory.md R50). -/
def byteAddrs (a : Word) (n : Nat) : List Word := (List.range n).map fun j => a + BitVec.ofNat 64 j

/-- `#SS(0)` for the stack segment, else `#GP(0)` (60_exceptions.md R156). -/
def segmentFault : Segment → Fault
  | .stack => .stackSegment
  | .data  => .generalProtection

/-- The parameter MemFault (20_memory.md R56) as the state's memory map gives it: a byte at a non-canonical address
comes before a page fault (60_exceptions.md R159). -/
def memFault (s : State) (acc : Access) (seg : Segment) (a : Word) (n : Nat) : Option Fault :=
  if (byteAddrs a n).any (fun x => !canonical s.plat.vaBits x) then some (segmentFault seg)
  else if (byteAddrs a n).any (fun x => !permitted s.plat.map acc x) then some .pageFault
  else none

/-- `MemRead(addr, n)`: the bytes, lowest address first, or a memory fault (20_memory.md R50, R56), or a refusal where a
byte stands in a device region (R57). -/
def memRead (s : State) (acc : Access) (seg : Segment) (a : Word) (n : Nat) : Result (List Byte) :=
  match memFault s acc seg a n with
  | some e => raise e
  | none =>
    if (byteAddrs a n).any (inDevice s.plat.map) then refuse .deviceMemory
    else .next ((byteAddrs a n).map fun x => readByte s.mem x.toNat)

/-- The value of bytes, least significant first: the sum of byte j times 256^j (20_memory.md R50). -/
def leNat : List Byte → Nat
  | []      => 0
  | b :: bs => b.toNat + 256 * leNat bs

/-- An 8-byte data read as a 64-bit element (20_memory.md R50). -/
def memReadDouble (s : State) (seg : Segment) (a : Word) : Result Word :=
  andThen (memRead s .dataRead seg a 8) fun bs => .next (BitVec.ofNat 64 (leNat bs))

end Sys2Proof.Machine
end

