-- ==== Sys2Proof/Machine/Operands.lean ====
section
/-! DEFINITION. Every operand form: vector lengths and elements, the writemask, effective addresses and segments, the
source operand's elements and the memory faults of reading them. -/

namespace Sys2Proof.Machine

/-! ## Vector lengths and elements -/

/-- `VL` in bits (30_encoding.md R85). -/
def vlBits : VL → Nat
  | .v128 => 128
  | .v256 => 256
  | .v512 => 512

/-- `KL := VL / 64`, the number of elements (00_scope.md glossary). -/
def vlElements (vl : VL) : Nat := vlBits vl / 64

/-- `V.double[i]`, bits 64*i+63 : 64*i (00_scope.md R8). -/
def double (v : Zmm) (i : Nat) : Word := v.extractLsb' (64 * i) 64

/-- `zext_512(r[KL-1] ++ ... ++ r[0])`: element 0 lowest, zeros above the last (40_vgetmantpd.md R120, R128). -/
def packDoubles : List Word → Zmm
  | []      => 0#512
  | x :: xs => (packDoubles xs <<< 64) ||| x.setWidth 512

/-- Element `i` is active: no writemask, or bit `i` of the selected mask register is 1 (R122, 10_state.md R23). -/
def active (s : State) (aaa : BitVec 3) (i : Nat) : Bool := aaa == 0#3 || (s.kreg aaa).getLsbD i

/-! ## Effective addresses (30_encoding.md R79 to R82) -/

/-- The factor `N` of an 8-bit displacement: 8 for broadcast, else `VL/8` (R82). -/
def dispScale (vl : VL) (bcst : Bool) : Nat := if bcst then 8 else vlBits vl / 8

/-- `ival`: 0 for no index, else `gpr[idx] * 2^scale` (R79). -/
def indexValue (s : State) : Option Index → Word
  | none   => 0#64
  | some x => s.greg x.reg * BitVec.ofNat 64 (2 ^ x.scale.toNat)

/-- Base register plus scaled index (R79). -/
def baseFormValue (s : State) : BaseForm → Word
  | .reg b   => s.greg b
  | .sib b x => s.greg b + indexValue s x

/-- The effective address with `mod = 00`; RIP-relative uses the address of the next instruction (R79, R80). -/
def ea00 (s : State) (len : Nat) : Addr00 → Word
  | .plain f    => baseFormValue s f
  | .rip d      => (s.pc + BitVec.ofNat 64 len) + d.signExtend 64
  | .noBase x d => indexValue s x + d.signExtend 64

/-- The effective address with `mod = 01`: the displacement is scaled by `N` (R79, R81). -/
def ea01 (s : State) (n : Nat) (a : Addr01) : Word :=
  baseFormValue s a.form + a.disp.signExtend 64 * BitVec.ofNat 64 n

/-- The effective address with `mod = 10` (R79, R81). -/
def ea10 (s : State) (a : Addr10) : Word := baseFormValue s a.form + a.disp.signExtend 64

/-- The stack segment when the base register number is 4 or 5 (R79, 60_exceptions.md R156). -/
def baseSegment (b : GReg) : Segment := if b = 4#4 ∨ b = 5#4 then .stack else .data

/-- The default segment of a base form. -/
def formSegment : BaseForm → Segment
  | .reg b   => baseSegment b
  | .sib b _ => baseSegment b

/-- The default segment of a `mod = 00` address; without a base register it is the data segment. -/
def segment00 : Addr00 → Segment
  | .plain f    => formSegment f
  | .rip _      => .data
  | .noBase _ _ => .data

/-! ## The source operand -/

/-- The source operand, its effective address computed once (40_vgetmantpd.md R121). -/
inductive Source where
  /-- A vector register. -/
  | reg (r : VReg)
  /-- A full-width memory operand. -/
  | mem (seg : Segment) (ea : Word)
  /-- One 64-bit memory element for every lane. -/
  | bcst (seg : Segment) (ea : Word)
deriving DecidableEq, Repr

/-- The source of a `mod = 00` row. -/
def source00 (s : State) (bcst : Bool) (a : Addr00) : Source :=
  if bcst then .bcst (segment00 a) (ea00 s (len00 a) a) else .mem (segment00 a) (ea00 s (len00 a) a)

/-- The source of a `mod = 01` row. -/
def source01 (s : State) (vl : VL) (bcst : Bool) (a : Addr01) : Source :=
  if bcst then .bcst (formSegment a.form) (ea01 s (dispScale vl bcst) a)
  else .mem (formSegment a.form) (ea01 s (dispScale vl bcst) a)

/-- The source of a `mod = 10` row. -/
def source10 (s : State) (bcst : Bool) (a : Addr10) : Source :=
  if bcst then .bcst (formSegment a.form) (ea10 s a) else .mem (formSegment a.form) (ea10 s a)

/-- Source element `i` (40_vgetmantpd.md R121). Under broadcast every element reads the same 8 bytes; memory does not
change, so that is the one read the rule speaks of (20_memory.md R54, R55). -/
def sourceElement (s : State) (src : Source) (i : Nat) : Result Word :=
  match src with
  | .reg r       => .next (double (s.vreg r) i)
  | .mem seg ea  => memReadDouble s seg (ea + BitVec.ofNat 64 (8 * i))
  | .bcst seg ea => memReadDouble s seg ea

/-- What reading each element gave; an inactive element is not read (20_memory.md R54). -/
def elementReads (s : State) (src : Source) (vl : VL) (aaa : BitVec 3) : List (Option (Result Word)) :=
  (List.range (vlElements vl)).map fun i => if active s aaa i then some (sourceElement s src i) else none

/-- The refusal of one read, if it is one. -/
def refusalOf : Option (Result Word) → Option Refusal
  | some (.refused q) => some q
  | _                 => none

/-- The fault of one read, if it is one. -/
def faultOf : Option (Result Word) → Option Fault
  | some (.fault e) => some e
  | _               => none

/-- The value of one read, if it is one. -/
def valueOf : Option (Result Word) → Option Word
  | some (.next v) => some v
  | _              => none

/-- The fault reported when at least one active element faults: any of them may be (60_exceptions.md R159). Where they
are not all the same exception, the free choice decides (log 11). -/
def drawFault (seed : Nat) (e : Fault) (es : List Fault) : Fault :=
  if es.all (· == e) then e
  else (e :: es).getD (Config.faultDraw seed (es.length + 1) % (es.length + 1)) e

/-- The elements of the source, or the stop: a device read is refused first (log 15), then a fault is reported. -/
def collectReads (seed : Nat) (rs : List (Option (Result Word))) : Result (List (Option Word)) :=
  match rs.findSome? refusalOf with
  | some q => refuse q
  | none =>
    match rs.filterMap faultOf with
    | []      => .next (rs.map valueOf)
    | e :: es => raise (drawFault seed e es)

/-- All active elements of the source operand, `none` where an element is inactive (R120). -/
def readSource (s : State) (src : Source) (vl : VL) (aaa : BitVec 3) : Result (List (Option Word)) :=
  collectReads s.plat.drawSeed (elementReads s src vl aaa)

end Sys2Proof.Machine
end

