-- ==== Sys2Proof/Machine/Checks.lean ====
section
/-! DEFINITION. What is checked before an operand is read: mode, reserved fields, features, enablement, the immediate's
high bits, CR0.TS (30_encoding.md R84, R88 to R93, R95; 60_exceptions.md R150, R151, R155, R159). -/

namespace Sys2Proof.Machine

/-- `#UD` unless the condition holds. -/
def udUnless (ok : Bool) : Result Unit := if ok then .next () else raise .invalidOpcode

/-- The mode: 32-bit modes are refused (10_state.md R31, 60_exceptions.md R164); in real-address mode the bytes raise
`#UD` (10_state.md R35). -/
def modeCheck (s : State) : Result Unit :=
  match s.ctl.mode with
  | .bits64      => .next ()
  | .bits32      => refuse .notMode64
  | .realAddress => raise .invalidOpcode

/-- The reserved fields: `vvvv` = 1111 (R88), V' = 1 (R89), not `z` without a writemask (R90). -/
def reservedOk (e : Evex) : Bool := e.vvvv == 15#4 && e.vp && !(e.z && e.aaa == 0#3)

/-- The CPUID features: AVX512F for every form, AVX512VL below 512 bits (R93). -/
def featureOk (vl : VL) (c : Control) : Bool := c.avx512f && (vl == .v512 || c.avx512vl)

/-- The operating system's enablement of the vector state (60_exceptions.md R155). -/
def enableOk (c : Control) : Bool := c.osxsave && c.xcr0Avx && c.xcr0Avx512

/-- `imm8[7:4]` (R84): nothing if zero; else what the policy says. -/
def immCheck (p : ImmHiPolicy) (imm8 : Byte) : Result Unit :=
  if imm8.extractLsb' 4 4 = 0#4 then .next ()
  else
    match p with
    | .refuse => refuse .immHighBits
    | .ignore => .next ()
    | .ud     => raise .invalidOpcode

/-- `CR0.TS` = 1 raises `#NM` (60_exceptions.md R155). -/
def tsCheck (c : Control) : Result Unit := if c.ts then raise .deviceNotAvailable else .next ()

/-- All checks before the operand is read: every `#UD`, then the refusal of R84, then `#NM` (R95, R159; log 14). -/
def checks (vl : VL) (e : Evex) (s : State) : Result Unit :=
  andThen (modeCheck s) fun _ =>
  andThen (udUnless (reservedOk e)) fun _ =>
  andThen (udUnless (featureOk vl s.ctl)) fun _ =>
  andThen (udUnless (enableOk s.ctl)) fun _ =>
  andThen (immCheck s.plat.immHi e.imm8) fun _ =>
  tsCheck s.ctl

end Sys2Proof.Machine
end

