-- ==== Sys2Proof/Machine/Reserved.lean ====
section
/-! DEFINITION. The meanings of the four reserved rows, L'L = 11 outside the sae form (30_encoding.md R91). -/

namespace Sys2Proof.Machine

/-- A reserved vector length raises `#UD` (30_encoding.md R91, 60_exceptions.md R151); the mode comes first. -/
def reservedLength (s : State) : Result State := andThen (modeCheck s) fun _ => raise .invalidOpcode

/-- Reserved, register source (R91). -/
def execUdReg (_e : Evex) (_src : VReg) (s : State) : Result State := reservedLength s

/-- Reserved, memory source, mod = 00 (R91). -/
def execUdMem00 (_e : Evex) (_b : Bool) (_a : Addr00) (s : State) : Result State := reservedLength s

/-- Reserved, memory source, mod = 01 (R91). -/
def execUdMem01 (_e : Evex) (_b : Bool) (_a : Addr01) (s : State) : Result State := reservedLength s

/-- Reserved, memory source, mod = 10 (R91). -/
def execUdMem10 (_e : Evex) (_b : Bool) (_a : Addr10) (s : State) : Result State := reservedLength s

end Sys2Proof.Machine
end

