-- ==== Sys2Proof/Machine/Flags.lean ====
section
/-! DEFINITION. MXCSR: its fields (10_state.md R27), and what an instruction does to its flags, with the unmasked case
(40_vgetmantpd.md R127, 60_exceptions.md R152 to R154). -/

namespace Sys2Proof.Machine

/-- `IE`, the invalid-operation flag, bit 0. -/
def mxcsrIE (m : BitVec 32) : Bool := m.getLsbD 0

/-- `DE`, the denormal-operand flag, bit 1. -/
def mxcsrDE (m : BitVec 32) : Bool := m.getLsbD 1

/-- `DAZ`, denormals are zeros, bit 6. -/
def mxcsrDAZ (m : BitVec 32) : Bool := m.getLsbD 6

/-- `IM`, the invalid-operation mask, bit 7. -/
def mxcsrIM (m : BitVec 32) : Bool := m.getLsbD 7

/-- `DM`, the denormal-operand mask, bit 8. -/
def mxcsrDM (m : BitVec 32) : Bool := m.getLsbD 8

/-- Bits 31:16, reserved: they read as zero in every state a run meets (10_state.md R27; log 31). -/
def mxcsrReserved (m : BitVec 32) : BitVec 16 := m.extractLsb' 16 16

/-- `MXCSR.IE <- MXCSR.IE or ie`, `MXCSR.DE <- MXCSR.DE or de`; no bit is ever cleared (R127; 10_state.md R26). -/
def setFlags (m : BitVec 32) (ie de : Bool) : BitVec 32 :=
  m ||| (if ie then 1#32 else 0#32) ||| (if de then 2#32 else 0#32)

/-- An exception that is signalled and not masked (R127). -/
def unmasked (m : BitVec 32) (ie de : Bool) : Bool := (ie && !mxcsrIM m) || (de && !mxcsrDM m)

/-- The exception of an unmasked floating-point exception: `#XM` if OSXMMEXCPT is 1, else `#UD` (60_exceptions.md R154). -/
def simdFault (osxmmexcpt : Bool) : Fault := if osxmmexcpt then .simdFloatingPoint else .invalidOpcode

/-- R127 after the element loop: under `{sae}` nothing; else the fault if an exception is not masked, and the flags. -/
def commitFlags (sae osxmmexcpt : Bool) (m : BitVec 32) (ie de : Bool) : Result (BitVec 32) :=
  if sae then .next m
  else if unmasked m ie de then raise (simdFault osxmmexcpt)
  else .next (setFlags m ie de)

end Sys2Proof.Machine
end

