-- ==== Sys2Proof/Machine/Getmant.lean ====
section
/-! DEFINITION. The element format (10_state.md R24, R25) and the per-element function getmant_fp64
(40_vgetmantpd.md R110 to R119). -/

namespace Sys2Proof.Machine

/-! ## The element format -/

/-- `sign`, bit 63 (R24). -/
def signOf (x : Word) : Bool := x.getLsbD 63

/-- `exp`, bits 62:52 (R24). -/
def expOf (x : Word) : BitVec 11 := x.extractLsb' 52 11

/-- `fraction`, bits 51:0 (R24). -/
def fracOf (x : Word) : BitVec 52 := x.extractLsb' 0 52

/-- An element from its three fields, `sign ++ exp ++ fraction` (R111). -/
def packElement (sign : Bool) (exp : BitVec 11) (frac : BitVec 52) : Word := BitVec.ofBool sign ++ exp ++ frac

/-- Class `zero`: with `DAZ` a denormal is a zero too (R25). -/
def isZero (x : Word) (daz : Bool) : Bool := expOf x == 0#11 && (fracOf x == 0#52 || daz)

/-- Class `denormal` (R25). -/
def isDenormal (x : Word) (daz : Bool) : Bool := expOf x == 0#11 && fracOf x != 0#52 && !daz

/-- Class `infinity` (R25). -/
def isInfinity (x : Word) : Bool := expOf x == 0x7FF#11 && fracOf x == 0#52

/-- Class `nan` (R25). -/
def isNan (x : Word) : Bool := expOf x == 0x7FF#11 && fracOf x != 0#52

/-- Class `snan`: a NaN whose top fraction bit is 0 (R25; 90_conflicts.md C6). -/
def isSnan (x : Word) : Bool := isNan x && !(fracOf x).getLsbD 51

/-! ## Constants and small functions -/

/-- `+1.0` (00_scope.md R10). -/
def plusOne : Word := 0x3FF0000000000000#64

/-- `-1.0` (00_scope.md R10). -/
def minusOne : Word := 0xBFF0000000000000#64

/-- `QNaN_Indefinite` (40_vgetmantpd.md R114; PRESUMED by the spec, log 18). -/
def qnanIndefinite : Word := 0xFFF8000000000000#64

/-- `qnan(src)`: the source with its top fraction bit set (R113; PRESUMED by the spec, log 18). -/
def qnan (x : Word) : Word := x ||| 0x0008000000000000#64

/-- `signed_one`: `+1.0` if `sc[0]`, else `-1.0` (R112). -/
def signedOne (sc : BitVec 2) : Word := if sc.getLsbD 0 then plusOne else minusOne

/-- What `getmant_fp64` answers for one element: the value and the two exception indications (R110). -/
structure MantResult where
  value : Word
  ie    : Bool
  de    : Bool
deriving DecidableEq, Repr

/-- The loop of step 4 of R112: `jbit := F[51]; F := F << 1; E := E - 1`, until `jbit` is 1. The first argument bounds
the iterations; 52 of them always suffice for a fraction that is not zero (R115, R118). -/
def normalise : Nat → BitVec 11 → BitVec 52 → BitVec 11 × BitVec 52
  | 0,     exp, frac => (exp, frac)
  | n + 1, exp, frac =>
    if frac.getLsbD 51 then (exp - 1#11, frac <<< 1) else normalise n (exp - 1#11) (frac <<< 1)

/-- `odd := (E - 1023) mod 2`, the parity of a signed difference (R112 step 5, R118). -/
def oddExp (exp : BitVec 11) : Bool := ((exp.toNat : Int) - 1023) % 2 == 1

/-- `rexp` of step 5 of R112: 1023, or 1022 where the interval asks for it. -/
def resultExp (interv : BitVec 2) (odd top : Bool) : BitVec 11 :=
  if interv = 0#2 then 1023#11
  else if interv = 1#2 then (if odd then 1022#11 else 1023#11)
  else if interv = 2#2 then 1022#11
  else (if top then 1022#11 else 1023#11)

/-- Steps 5 and 6 of R112 on a sign, an exponent `E` and a fraction `F`. -/
def finishMant (sign : Bool) (interv : BitVec 2) (exp : BitVec 11) (frac : BitVec 52) : Word :=
  packElement sign (resultExp interv (oddExp exp) (frac.getLsbD 51)) frac

/-- Steps 4 to 6 of R112: a finite source that is not in class `zero`. -/
def getmantFinite (src : Word) (sc interv : BitVec 2) (daz : Bool) : MantResult :=
  let sign := if sc.getLsbD 0 then false else signOf src
  if isDenormal src daz then
    let n := normalise 52 1023#11 (fracOf src)
    ⟨finishMant sign interv n.1 n.2, false, true⟩
  else ⟨finishMant sign interv (expOf src) (fracOf src), false, false⟩

/-- `getmant_fp64(src, sc, interv, daz)` (40_vgetmantpd.md R112): the steps in the rule's order. -/
def getmant (src : Word) (sc interv : BitVec 2) (daz : Bool) : MantResult :=
  if isNan src then ⟨qnan src, isSnan src, false⟩
  else if !signOf src && (isZero src daz || isInfinity src) then ⟨plusOne, false, false⟩
  else if signOf src && isZero src daz then ⟨signedOne sc, false, false⟩
  else if signOf src && isInfinity src then
    (if sc.getLsbD 1 then ⟨qnanIndefinite, true, false⟩ else ⟨signedOne sc, false, false⟩)
  else if signOf src && sc.getLsbD 1 then ⟨qnanIndefinite, true, false⟩
  else getmantFinite src sc interv daz

end Sys2Proof.Machine
end

