-- ==== Sys2Proof/Machine/Vector.lean ====
section
/-! DEFINITION. The vector operation that all VGETMANTPD rows share (40_vgetmantpd.md R120 to R122, R127 to R131). -/

namespace Sys2Proof.Machine

/-- `sc := imm8[3:2]` (30_encoding.md R83). -/
def signControl (e : Evex) : BitVec 2 := e.imm8.extractLsb' 2 2

/-- `interv := imm8[1:0]` (30_encoding.md R83). -/
def interval (e : Evex) : BitVec 2 := e.imm8.extractLsb' 0 2

/-- `getmant_fp64` with the instruction's immediate and `MXCSR.DAZ` as it is before the instruction (R120). -/
def mantOf (s : State) (e : Evex) (x : Word) : MantResult :=
  getmant x (signControl e) (interval e) (mxcsrDAZ s.mxcsr)

/-- One lane of the element loop (R120, R122): an active element is computed; an inactive one becomes 0 under zeroing
and keeps its old value under merging, and signals nothing. -/
def lane (s : State) (e : Evex) (i : Nat) (t : Option Word) : MantResult :=
  match t with
  | some x => mantOf s e x
  | none   => ⟨if e.z then 0#64 else double (s.vreg e.dest) i, false, false⟩

/-- The element loop over the source elements that were read (R120). -/
def lanes (s : State) (e : Evex) (vl : VL) (ts : List (Option Word)) : List MantResult :=
  (List.range (vlElements vl)).map fun i => lane s e i (ts.getD i none)

/-- `execute` of R120: read, compute, commit the flags or fault, write the whole register, advance. -/
def execute (vl : VL) (sae : Bool) (src : Source) (e : Evex) (len : Nat) (s : State) : Result State :=
  andThen (readSource s src vl e.aaa) fun ts =>
  andThen (commitFlags sae s.ctl.osxmmexcpt s.mxcsr ((lanes s e vl ts).any (·.ie)) ((lanes s e vl ts).any (·.de))) fun m =>
  .next (((s.setVreg e.dest (packDoubles ((lanes s e vl ts).map (·.value)))).setMxcsr m).advance len)

/-- One VGETMANTPD row: the checks, then `execute` (60_exceptions.md R159). -/
def vgetmantpd (vl : VL) (sae : Bool) (src : Source) (e : Evex) (len : Nat) (s : State) : Result State :=
  andThen (checks vl e s) fun _ => execute vl sae src e len s

end Sys2Proof.Machine
end

