-- ==== Sys2Proof/Machine/Xmm.lean ====
section
/-! DEFINITION. The meanings of the 128-bit rows of VGETMANTPD (40_vgetmantpd.md R123). -/

namespace Sys2Proof.Machine

/-- `VGETMANTPD xmm1 (k1)(z), xmm2, imm8` (R123). -/
def execXmmReg (e : Evex) (src : VReg) (s : State) : Result State :=
  vgetmantpd .v128 false (.reg src) e lenReg s

/-- `VGETMANTPD xmm1 (k1)(z), m128, imm8`, mod = 00 (R123). -/
def execXmmMem00 (e : Evex) (a : Addr00) (s : State) : Result State :=
  vgetmantpd .v128 false (source00 s false a) e (len00 a) s

/-- `VGETMANTPD xmm1 (k1)(z), m128, imm8`, mod = 01 (R123). -/
def execXmmMem01 (e : Evex) (a : Addr01) (s : State) : Result State :=
  vgetmantpd .v128 false (source01 s .v128 false a) e (len01 a) s

/-- `VGETMANTPD xmm1 (k1)(z), m128, imm8`, mod = 10 (R123). -/
def execXmmMem10 (e : Evex) (a : Addr10) (s : State) : Result State :=
  vgetmantpd .v128 false (source10 s false a) e (len10 a) s

/-- `VGETMANTPD xmm1 (k1)(z), m64bcst, imm8`, mod = 00 (R123). -/
def execXmmBcst00 (e : Evex) (a : Addr00) (s : State) : Result State :=
  vgetmantpd .v128 false (source00 s true a) e (len00 a) s

/-- `VGETMANTPD xmm1 (k1)(z), m64bcst, imm8`, mod = 01 (R123). -/
def execXmmBcst01 (e : Evex) (a : Addr01) (s : State) : Result State :=
  vgetmantpd .v128 false (source01 s .v128 true a) e (len01 a) s

/-- `VGETMANTPD xmm1 (k1)(z), m64bcst, imm8`, mod = 10 (R123). -/
def execXmmBcst10 (e : Evex) (a : Addr10) (s : State) : Result State :=
  vgetmantpd .v128 false (source10 s true a) e (len10 a) s

end Sys2Proof.Machine
end

