-- ==== Sys2Proof/Machine/Ymm.lean ====
section
/-! DEFINITION. The meanings of the 256-bit rows of VGETMANTPD (40_vgetmantpd.md R124). -/

namespace Sys2Proof.Machine

/-- `VGETMANTPD ymm1 (k1)(z), ymm2, imm8` (R124). -/
def execYmmReg (e : Evex) (src : VReg) (s : State) : Result State :=
  vgetmantpd .v256 false (.reg src) e lenReg s

/-- `VGETMANTPD ymm1 (k1)(z), m256, imm8`, mod = 00 (R124). -/
def execYmmMem00 (e : Evex) (a : Addr00) (s : State) : Result State :=
  vgetmantpd .v256 false (source00 s false a) e (len00 a) s

/-- `VGETMANTPD ymm1 (k1)(z), m256, imm8`, mod = 01 (R124). -/
def execYmmMem01 (e : Evex) (a : Addr01) (s : State) : Result State :=
  vgetmantpd .v256 false (source01 s .v256 false a) e (len01 a) s

/-- `VGETMANTPD ymm1 (k1)(z), m256, imm8`, mod = 10 (R124). -/
def execYmmMem10 (e : Evex) (a : Addr10) (s : State) : Result State :=
  vgetmantpd .v256 false (source10 s false a) e (len10 a) s

/-- `VGETMANTPD ymm1 (k1)(z), m64bcst, imm8`, mod = 00 (R124). -/
def execYmmBcst00 (e : Evex) (a : Addr00) (s : State) : Result State :=
  vgetmantpd .v256 false (source00 s true a) e (len00 a) s

/-- `VGETMANTPD ymm1 (k1)(z), m64bcst, imm8`, mod = 01 (R124). -/
def execYmmBcst01 (e : Evex) (a : Addr01) (s : State) : Result State :=
  vgetmantpd .v256 false (source01 s .v256 true a) e (len01 a) s

/-- `VGETMANTPD ymm1 (k1)(z), m64bcst, imm8`, mod = 10 (R124). -/
def execYmmBcst10 (e : Evex) (a : Addr10) (s : State) : Result State :=
  vgetmantpd .v256 false (source10 s true a) e (len10 a) s

end Sys2Proof.Machine
end

