-- ==== Sys2Proof/Machine/Zmm.lean ====
section
/-! DEFINITION. The meanings of the 512-bit rows of VGETMANTPD (40_vgetmantpd.md R125, R126). -/

namespace Sys2Proof.Machine

/-- `VGETMANTPD zmm1 (k1)(z), zmm2, imm8` (R125). -/
def execZmmReg (e : Evex) (src : VReg) (s : State) : Result State :=
  vgetmantpd .v512 false (.reg src) e lenReg s

/-- `VGETMANTPD zmm1 (k1)(z), m512, imm8`, mod = 00 (R125). -/
def execZmmMem00 (e : Evex) (a : Addr00) (s : State) : Result State :=
  vgetmantpd .v512 false (source00 s false a) e (len00 a) s

/-- `VGETMANTPD zmm1 (k1)(z), m512, imm8`, mod = 01 (R125). -/
def execZmmMem01 (e : Evex) (a : Addr01) (s : State) : Result State :=
  vgetmantpd .v512 false (source01 s .v512 false a) e (len01 a) s

/-- `VGETMANTPD zmm1 (k1)(z), m512, imm8`, mod = 10 (R125). -/
def execZmmMem10 (e : Evex) (a : Addr10) (s : State) : Result State :=
  vgetmantpd .v512 false (source10 s false a) e (len10 a) s

/-- `VGETMANTPD zmm1 (k1)(z), m64bcst, imm8`, mod = 00 (R125). -/
def execZmmBcst00 (e : Evex) (a : Addr00) (s : State) : Result State :=
  vgetmantpd .v512 false (source00 s true a) e (len00 a) s

/-- `VGETMANTPD zmm1 (k1)(z), m64bcst, imm8`, mod = 01 (R125). -/
def execZmmBcst01 (e : Evex) (a : Addr01) (s : State) : Result State :=
  vgetmantpd .v512 false (source01 s .v512 true a) e (len01 a) s

/-- `VGETMANTPD zmm1 (k1)(z), m64bcst, imm8`, mod = 10 (R125). -/
def execZmmBcst10 (e : Evex) (a : Addr10) (s : State) : Result State :=
  vgetmantpd .v512 false (source10 s true a) e (len10 a) s

/-- `VGETMANTPD zmm1 (k1)(z), zmm2(sae), imm8` (R126): 512 bits, no flag and no floating-point exception. -/
def execZmmSae (e : Evex) (src : VReg) (s : State) : Result State :=
  vgetmantpd .v512 true (.reg src) e lenReg s

end Sys2Proof.Machine
end

