-- ==== Sys2Proof/Machine/Dispatch.lean ====
section
/-! DEFINITION. The meaning of each instruction: one arm for each row of spec/opcode_table.json. -/

namespace Sys2Proof.Machine

def exec (i : Instr) (s : State) : Host.Outcome State Fault Refusal :=
  match i with
  | .xmmReg e src => Sys2Proof.Machine.execXmmReg e src s
  | .xmmMem00 e a => Sys2Proof.Machine.execXmmMem00 e a s
  | .xmmMem01 e a => Sys2Proof.Machine.execXmmMem01 e a s
  | .xmmMem10 e a => Sys2Proof.Machine.execXmmMem10 e a s
  | .xmmBcst00 e a => Sys2Proof.Machine.execXmmBcst00 e a s
  | .xmmBcst01 e a => Sys2Proof.Machine.execXmmBcst01 e a s
  | .xmmBcst10 e a => Sys2Proof.Machine.execXmmBcst10 e a s
  | .ymmReg e src => Sys2Proof.Machine.execYmmReg e src s
  | .ymmMem00 e a => Sys2Proof.Machine.execYmmMem00 e a s
  | .ymmMem01 e a => Sys2Proof.Machine.execYmmMem01 e a s
  | .ymmMem10 e a => Sys2Proof.Machine.execYmmMem10 e a s
  | .ymmBcst00 e a => Sys2Proof.Machine.execYmmBcst00 e a s
  | .ymmBcst01 e a => Sys2Proof.Machine.execYmmBcst01 e a s
  | .ymmBcst10 e a => Sys2Proof.Machine.execYmmBcst10 e a s
  | .zmmReg e src => Sys2Proof.Machine.execZmmReg e src s
  | .zmmMem00 e a => Sys2Proof.Machine.execZmmMem00 e a s
  | .zmmMem01 e a => Sys2Proof.Machine.execZmmMem01 e a s
  | .zmmMem10 e a => Sys2Proof.Machine.execZmmMem10 e a s
  | .zmmBcst00 e a => Sys2Proof.Machine.execZmmBcst00 e a s
  | .zmmBcst01 e a => Sys2Proof.Machine.execZmmBcst01 e a s
  | .zmmBcst10 e a => Sys2Proof.Machine.execZmmBcst10 e a s
  | .zmmSae e src => Sys2Proof.Machine.execZmmSae e src s
  | .udReg e src => Sys2Proof.Machine.execUdReg e src s
  | .udMem00 e b a => Sys2Proof.Machine.execUdMem00 e b a s
  | .udMem01 e b a => Sys2Proof.Machine.execUdMem01 e b a s
  | .udMem10 e b a => Sys2Proof.Machine.execUdMem10 e b a s

end Sys2Proof.Machine
end

