-- ==== Sys2Proof/Machine/Fetch.lean ====
section
/-! DEFINITION. Fetching and decoding the instruction at pc (30_encoding.md R95; 20_memory.md R51, R56, R62). -/

namespace Sys2Proof.Machine

/-- Up to `n` instruction bytes from `a`, one `MemRead(a, 1)` of kind fetch each, and how the fetch ended: all read, or
the stop of the first byte that could not be read. A fetch uses no stack segment (log 34). -/
def fetchBytes (s : State) : Nat → Word → List Byte × Result Unit
  | 0,     _ => ([], .next ())
  | n + 1, a =>
    match memRead s .fetch .data a 1 with
    | .fault e   => ([], .fault e)
    | .refused q => ([], .refused q)
    | .next bs   => (bs ++ (fetchBytes s n (a + 1#64)).1, (fetchBytes s n (a + 1#64)).2)

/-- The instruction that fetched bytes hold. Bytes that are not this instruction are refused (R96). Where decoding
needs a byte that the fetch could not read, the fetch's stop is the step's (60_exceptions.md R159 item 1); with all 12
bytes read decoding never runs out (R71), so the last refusal is not reached. -/
def decodeFetched (f : List Byte × Result Unit) : Result Instr :=
  match decode f.1 with
  | .ok i _     => .next i
  | .rejected _ => refuse .notInScope
  | .truncated  => andThen f.2 fun _ => refuse .notInScope

/-- Fetch and decode at pc. In a 32-bit mode the bytes have another meaning: refused (60_exceptions.md R164). -/
def fetchInstr (s : State) : Result Instr :=
  match s.ctl.mode with
  | .bits32 => refuse .notMode64
  | _       => decodeFetched (fetchBytes s Config.maxLength s.pc)

end Sys2Proof.Machine
end

