-- ==== Sys2Proof/Machine/Step.lean ====
section
/-! DEFINITION. One step of the machine, and where the host places an instruction. -/

namespace Sys2Proof.Machine

/-- One step is one whole instruction: fetch, decode, execute (00_scope.md R5, R13). -/
def step (s : State) : Host.Outcome State Fault Refusal :=
  andThen (fetchInstr s) fun i => exec i s

/-- The state with an instruction stored at pc and ready to run: the bytes of the table word at pc, zeros up to the
longest instruction, and what software and loader do before the launch premises hold (`State.boot`; log 5, log 6). -/
def State.withFetchWord (s : State) (nbits w : Nat) : State :=
  s.boot.setMem (placeBytes s.mem s.pc (tableWordBytes nbits w))

end Sys2Proof.Machine
end

