-- ==== Sys2Proof/Safety.lean ====
section
/-! DEFINITION. The terms that claims use: the launch premises (70_reset_and_hazards.md R182), when a row may run, what
its completion is, what a step leaves unchanged, a safe run (R187), and the real value of an element. -/

namespace Sys2Proof.Safety

open Sys2Proof Sys2Proof.Machine

/-! ## Launch premises and when a row may run -/

/-- The launch premise `Mode64` (R182). -/
abbrev Mode64 (s : State) : Prop := s.ctl.mode = .bits64

/-- The launch premise `VectorStateEnabled` (R182, 10_state.md R31), for a form of length `vl`. -/
abbrev VectorStateEnabled (vl : VL) (s : State) : Prop :=
  s.ctl.avx512f = true ∧ (vl = .v512 ∨ s.ctl.avx512vl = true) ∧ s.ctl.osxsave = true ∧
    s.ctl.xcr0.extractLsb' 1 2 = 3#2 ∧ s.ctl.xcr0.extractLsb' 5 3 = 7#3 ∧ s.ctl.ts = false

/-- No reserved field is set (30_encoding.md R88 to R90). -/
abbrev FieldsLegal (e : Evex) : Prop := e.vvvv = 15#4 ∧ e.vp = true ∧ ¬ (e.z = true ∧ e.aaa = 0#3)

/-- `imm8[7:4]` is zero, or the policy ignores it (30_encoding.md R84). -/
abbrev ImmLegal (e : Evex) (s : State) : Prop := e.imm8.extractLsb' 4 4 = 0#4 ∨ s.plat.immHi = .ignore

/-- Everything that is checked before the operand is read holds. -/
abbrev Runnable (vl : VL) (e : Evex) (s : State) : Prop :=
  Mode64 s ∧ FieldsLegal e ∧ VectorStateEnabled vl s ∧ ImmLegal e s

/-- Lane `i` is active (40_vgetmantpd.md R122). -/
abbrev LaneActive (s : State) (e : Evex) (i : Nat) : Prop := e.aaa = 0#3 ∨ (s.kreg e.aaa).getLsbD i = true

/-- One byte can be read as data: canonical, permitted, ordinary (20_memory.md R56, R57). -/
abbrev ReadableByte (s : State) (a : Word) : Prop :=
  canonical s.plat.vaBits a = true ∧ permitted s.plat.map .dataRead a = true ∧ inDevice s.plat.map a = false

/-- The eight bytes at `a` can be read as data. -/
abbrev ReadableDouble (s : State) (a : Word) : Prop := ∀ j, j < 8 → ReadableByte s (a + BitVec.ofNat 64 j)

/-- One byte can be fetched. -/
abbrev FetchableByte (s : State) (a : Word) : Prop :=
  canonical s.plat.vaBits a = true ∧ permitted s.plat.map .fetch a = true ∧ inDevice s.plat.map a = false

/-- The little-endian element at `a`: the sum of the byte at `a + j` times 256^j (20_memory.md R50). -/
def doubleAt (s : State) (a : Word) : Word :=
  BitVec.ofNat 64 ((List.range 8).map fun j => (readByte s.mem (a + BitVec.ofNat 64 j).toNat).toNat * 256 ^ j).sum

/-- `getmant_fp64` of an element with the instruction's immediate and the state's DAZ (40_vgetmantpd.md R120). -/
def mantFor (s : State) (e : Evex) (x : Word) : MantResult :=
  getmant x (e.imm8.extractLsb' 2 2) (e.imm8.extractLsb' 0 2) (s.mxcsr.getLsbD 6)

/-- Some active lane signals Invalid. -/
abbrev SignalsInvalid (vl : VL) (elem : Nat → Word) (e : Evex) (s : State) : Prop :=
  ∃ i, i < vlElements vl ∧ LaneActive s e i ∧ (mantFor s e (elem i)).ie = true

/-- Some active lane signals Denormal. -/
abbrev SignalsDenormal (vl : VL) (elem : Nat → Word) (e : Evex) (s : State) : Prop :=
  ∃ i, i < vlElements vl ∧ LaneActive s e i ∧ (mantFor s e (elem i)).de = true

/-- Every exception that an active lane signals is masked (40_vgetmantpd.md R127). -/
abbrev SignalsMasked (vl : VL) (elem : Nat → Word) (e : Evex) (s : State) : Prop :=
  (SignalsInvalid vl elem e s → s.mxcsr.getLsbD 7 = true) ∧ (SignalsDenormal vl elem e s → s.mxcsr.getLsbD 8 = true)

/-! ## What a completed instruction has done -/

/-- The frame of 10_state.md R34: all but the destination register, MXCSR.IE, MXCSR.DE and pc is unchanged. -/
abbrev Frame (d : VReg) (s t : State) : Prop :=
  (∀ r, r ≠ d → t.vreg r = s.vreg r) ∧ t.k = s.k ∧ t.gpr = s.gpr ∧ t.rflags = s.rflags ∧ t.ctl = s.ctl ∧
    t.plat = s.plat ∧ (∀ a, readByte t.mem a = readByte s.mem a) ∧
    t.mxcsr &&& ~~~ 3#32 = s.mxcsr &&& ~~~ 3#32

/-- The destination's lanes (40_vgetmantpd.md R120, R122): an active lane is `getmant_fp64` of its source element, an
inactive one is 0 under zeroing and keeps its old value under merging. -/
abbrev LanesWritten (vl : VL) (elem : Nat → Word) (e : Evex) (s t : State) : Prop :=
  ∀ i, i < vlElements vl →
    (LaneActive s e i → double (t.vreg e.dest) i = (mantFor s e (elem i)).value) ∧
    (¬ LaneActive s e i → e.z = true → double (t.vreg e.dest) i = 0#64) ∧
    (¬ LaneActive s e i → e.z = false → double (t.vreg e.dest) i = double (s.vreg e.dest) i)

/-- The flags without `{sae}`: set by active lanes, never cleared (R127). -/
abbrev FlagsSet (vl : VL) (elem : Nat → Word) (e : Evex) (s t : State) : Prop :=
  (t.mxcsr.getLsbD 0 = true ↔ s.mxcsr.getLsbD 0 = true ∨ SignalsInvalid vl elem e s) ∧
  (t.mxcsr.getLsbD 1 = true ↔ s.mxcsr.getLsbD 1 = true ∨ SignalsDenormal vl elem e s)

/-- Bits `[511:VL]` of the destination are zero (R128). -/
abbrev UpperZero (vl : VL) (d : VReg) (t : State) : Prop := (t.vreg d) >>> vlBits vl = 0#512

/-- The outcome is a next state with the instruction's own effect (R120): lanes, upper bits, flags, pc and frame. -/
def Completes (vl : VL) (elem : Nat → Word) (e : Evex) (len : Nat) (s : State) (o : Result State) : Prop :=
  ∃ t, o = .next t ∧ LanesWritten vl elem e s t ∧ UpperZero vl e.dest t ∧ FlagsSet vl elem e s t ∧
    t.pc = s.pc + BitVec.ofNat 64 len ∧ Frame e.dest s t

/-- As `Completes` under `{sae}`: MXCSR is not changed at all (R126). -/
def CompletesSae (elem : Nat → Word) (e : Evex) (len : Nat) (s : State) (o : Result State) : Prop :=
  ∃ t, o = .next t ∧ LanesWritten .v512 elem e s t ∧ t.mxcsr = s.mxcsr ∧
    t.pc = s.pc + BitVec.ofNat 64 len ∧ Frame e.dest s t

/-- A row with a full-width memory operand at `ea` completes whenever it may run, its active elements can be read and
what they signal is masked. -/
def MemoryRowCompletes (vl : VL) (e : Evex) (ea : Word) (len : Nat) (s : State) (o : Result State) : Prop :=
  Runnable vl e s →
  (∀ i, i < vlElements vl → LaneActive s e i → ReadableDouble s (ea + BitVec.ofNat 64 (8 * i))) →
  SignalsMasked vl (fun i => doubleAt s (ea + BitVec.ofNat 64 (8 * i))) e s →
  Completes vl (fun i => doubleAt s (ea + BitVec.ofNat 64 (8 * i))) e len s o

/-- A row with a broadcast memory operand at `ea` completes whenever it may run, the one element can be read if a lane
is active, and what it signals is masked. -/
def BroadcastRowCompletes (vl : VL) (e : Evex) (ea : Word) (len : Nat) (s : State) (o : Result State) : Prop :=
  Runnable vl e s →
  (∀ i, i < vlElements vl → LaneActive s e i → ReadableDouble s ea) →
  SignalsMasked vl (fun _ => doubleAt s ea) e s →
  Completes vl (fun _ => doubleAt s ea) e len s o

/-! ## The rows as data -/

/-- The vector length, `{sae}` and the source operand of a row that executes; `none` for the reserved rows. -/
structure RowView where
  vl  : VL
  sae : Bool
  src : Source
deriving DecidableEq, Repr

/-- The view of an instruction in a state. -/
def rowView (s : State) : Instr → Option RowView
  | .xmmReg _ r => some ⟨.v128, false, .reg r⟩
  | .xmmMem00 _ a => some ⟨.v128, false, .mem (segment00 a) (ea00 s (len00 a) a)⟩
  | .xmmMem01 _ a => some ⟨.v128, false, .mem (formSegment a.form) (ea01 s 16 a)⟩
  | .xmmMem10 _ a => some ⟨.v128, false, .mem (formSegment a.form) (ea10 s a)⟩
  | .xmmBcst00 _ a => some ⟨.v128, false, .bcst (segment00 a) (ea00 s (len00 a) a)⟩
  | .xmmBcst01 _ a => some ⟨.v128, false, .bcst (formSegment a.form) (ea01 s 8 a)⟩
  | .xmmBcst10 _ a => some ⟨.v128, false, .bcst (formSegment a.form) (ea10 s a)⟩
  | .ymmReg _ r => some ⟨.v256, false, .reg r⟩
  | .ymmMem00 _ a => some ⟨.v256, false, .mem (segment00 a) (ea00 s (len00 a) a)⟩
  | .ymmMem01 _ a => some ⟨.v256, false, .mem (formSegment a.form) (ea01 s 32 a)⟩
  | .ymmMem10 _ a => some ⟨.v256, false, .mem (formSegment a.form) (ea10 s a)⟩
  | .ymmBcst00 _ a => some ⟨.v256, false, .bcst (segment00 a) (ea00 s (len00 a) a)⟩
  | .ymmBcst01 _ a => some ⟨.v256, false, .bcst (formSegment a.form) (ea01 s 8 a)⟩
  | .ymmBcst10 _ a => some ⟨.v256, false, .bcst (formSegment a.form) (ea10 s a)⟩
  | .zmmReg _ r => some ⟨.v512, false, .reg r⟩
  | .zmmMem00 _ a => some ⟨.v512, false, .mem (segment00 a) (ea00 s (len00 a) a)⟩
  | .zmmMem01 _ a => some ⟨.v512, false, .mem (formSegment a.form) (ea01 s 64 a)⟩
  | .zmmMem10 _ a => some ⟨.v512, false, .mem (formSegment a.form) (ea10 s a)⟩
  | .zmmBcst00 _ a => some ⟨.v512, false, .bcst (segment00 a) (ea00 s (len00 a) a)⟩
  | .zmmBcst01 _ a => some ⟨.v512, false, .bcst (formSegment a.form) (ea01 s 8 a)⟩
  | .zmmBcst10 _ a => some ⟨.v512, false, .bcst (formSegment a.form) (ea10 s a)⟩
  | .zmmSae _ r => some ⟨.v512, true, .reg r⟩
  | .udReg _ _ => none
  | .udMem00 _ _ _ => none
  | .udMem01 _ _ _ => none
  | .udMem10 _ _ _ => none

/-- The address of element `i` of a source in memory; `none` for a register source (40_vgetmantpd.md R121). -/
def elementAddr : Source → Nat → Option (Segment × Word)
  | .reg _,       _ => none
  | .mem seg ea,  i => some (seg, ea + BitVec.ofNat 64 (8 * i))
  | .bcst seg ea, _ => some (seg, ea)

/-- The value of element `i` of a source, where it can be read (40_vgetmantpd.md R121). -/
def elementValue (s : State) : Source → Nat → Word
  | .reg r,     i => double (s.vreg r) i
  | .mem _ ea,  i => doubleAt s (ea + BitVec.ofNat 64 (8 * i))
  | .bcst _ ea, _ => doubleAt s ea

/-- Element `i` of a source can be read. -/
def ElementReadable (s : State) (src : Source) (i : Nat) : Prop :=
  ∀ p, elementAddr src i = some p → ReadableDouble s p.2

/-- The instruction with another immediate. -/
def withImm (b : Byte) : Instr → Instr
  | .xmmReg e x => .xmmReg { e with imm8 := b } x
  | .xmmMem00 e x => .xmmMem00 { e with imm8 := b } x
  | .xmmMem01 e x => .xmmMem01 { e with imm8 := b } x
  | .xmmMem10 e x => .xmmMem10 { e with imm8 := b } x
  | .xmmBcst00 e x => .xmmBcst00 { e with imm8 := b } x
  | .xmmBcst01 e x => .xmmBcst01 { e with imm8 := b } x
  | .xmmBcst10 e x => .xmmBcst10 { e with imm8 := b } x
  | .ymmReg e x => .ymmReg { e with imm8 := b } x
  | .ymmMem00 e x => .ymmMem00 { e with imm8 := b } x
  | .ymmMem01 e x => .ymmMem01 { e with imm8 := b } x
  | .ymmMem10 e x => .ymmMem10 { e with imm8 := b } x
  | .ymmBcst00 e x => .ymmBcst00 { e with imm8 := b } x
  | .ymmBcst01 e x => .ymmBcst01 { e with imm8 := b } x
  | .ymmBcst10 e x => .ymmBcst10 { e with imm8 := b } x
  | .zmmReg e x => .zmmReg { e with imm8 := b } x
  | .zmmMem00 e x => .zmmMem00 { e with imm8 := b } x
  | .zmmMem01 e x => .zmmMem01 { e with imm8 := b } x
  | .zmmMem10 e x => .zmmMem10 { e with imm8 := b } x
  | .zmmBcst00 e x => .zmmBcst00 { e with imm8 := b } x
  | .zmmBcst01 e x => .zmmBcst01 { e with imm8 := b } x
  | .zmmBcst10 e x => .zmmBcst10 { e with imm8 := b } x
  | .zmmSae e x => .zmmSae { e with imm8 := b } x
  | .udReg e x => .udReg { e with imm8 := b } x
  | .udMem00 e c x => .udMem00 { e with imm8 := b } c x
  | .udMem01 e c x => .udMem01 { e with imm8 := b } c x
  | .udMem10 e c x => .udMem10 { e with imm8 := b } c x

/-- An outcome with the next state changed by `f`; a fault or a refusal stays as it is. -/
def mapNext (f : State → State) : Result State → Result State
  | .next t    => .next (f t)
  | .fault e   => .fault e
  | .refused q => .refused q

/-! ## Addresses read from the bytes of an instruction, without its decoded form -/

/-- The base register's value from P0 and the three bits of ModRM.rm or SIB.base: `gpr[B ++ low]`, B stored inverted in
P0[5] (30_encoding.md R78, R79). -/
def byteBase (s : State) (p0 : Byte) (low : BitVec 3) : Word := s.greg (BitVec.ofBool (!p0.getLsbD 5) ++ low)

/-- The scaled index from P0 and SIB: nothing when X ++ index is 0100, else `gpr[X ++ index] * 2^scale`, X stored inverted
in P0[6] (30_encoding.md R78, R79). -/
def byteIndex (s : State) (p0 sib : Byte) : Word :=
  if p0.getLsbD 6 = true ∧ sib.extractLsb' 3 3 = 4#3 then 0#64
  else s.greg (BitVec.ofBool (!p0.getLsbD 6) ++ sib.extractLsb' 3 3) <<< (sib.extractLsb' 6 2).toNat

/-- The stack segment when the base register number B ++ low is 4 or 5 (30_encoding.md R79). -/
def byteSegment (p0 : Byte) (low : BitVec 3) : Segment :=
  if p0.getLsbD 5 = true ∧ (low = 4#3 ∨ low = 5#3) then .stack else .data

/-- The offset of element `k`: none under broadcast (P2[4] = 1), else 8*k bytes (40_vgetmantpd.md R121). -/
def byteOffset (p2 : Byte) (k : Nat) : Word := BitVec.ofNat 64 (if p2.getLsbD 4 then 0 else 8 * k)

/-- P0 and P1 pass steps 3 and 4 of 30_encoding.md R95: P0[3:0] = 0011; W = 1, the fixed bit 1 and pp = 01 in P1. -/
abbrev PayloadInScope (p0 p1 : Byte) : Prop :=
  p0.extractLsb' 0 4 = 3#4 ∧ p1.getLsbD 7 = true ∧ p1.getLsbD 2 = true ∧ p1.extractLsb' 0 2 = 1#2

/-! ## Invariant and runs -/

/-- What every step keeps: memory has its canonical form and the reserved bits of MXCSR read as zero (10_state.md R27). -/
abbrev Inv (s : State) : Prop := Memory.wf s.mem = true ∧ mxcsrReserved s.mxcsr = 0#16

/-- The bytes at `a` are `bs`, and each can be fetched. -/
def BytesAt (s : State) (a : Word) (bs : List Byte) : Prop :=
  ∀ j (h : j < bs.length),
    FetchableByte s (a + BitVec.ofNat 64 j) ∧ readByte s.mem (a + BitVec.ofNat 64 j).toNat = bs[j]

/-- A run of `n` instructions that ends with no fault and no refusal (70_reset_and_hazards.md R187). -/
def RunEnds (n : Nat) (s t : State) : Prop := Host.Core.run core n s = .next t

/-- A safe run: no fault and no refusal within `n` instructions. -/
def SafeRun (n : Nat) (s : State) : Prop := ∃ t, RunEnds n s t

/-! ## The real value of an element -/

/-- The value of a finite element: (-1)^sign * 2^(exp-1023) * 1.fraction, or (-1)^sign * 2^(-1022) * 0.fraction for
exponent field 0 (10_state.md R24). -/
def realValue (x : Word) : ℚ :=
  (if signOf x then -1 else 1) *
    (if expOf x = 0#11 then ((fracOf x).toNat : ℚ) * (2 : ℚ) ^ (-1074 : ℤ)
     else ((2 ^ 52 + (fracOf x).toNat : ℕ) : ℚ) * (2 : ℚ) ^ (((expOf x).toNat : ℤ) - 1075))

/-- The exponent `k` of the result's magnitude `m * 2^k` (40_vgetmantpd.md R116), for a source `m * 2^t`. -/
def resultScale (interv : BitVec 2) (t : ℤ) (m : ℚ) : ℤ :=
  if interv = 0#2 then 0
  else if interv = 1#2 then (if t % 2 = 1 then -1 else 0)
  else if interv = 2#2 then -1
  else (if 3 / 2 ≤ m then -1 else 0)

end Sys2Proof.Safety
end

