-- ==== Sys2Proof/Certificates/Slice0/Obligations.lean ====
section
/-! DEFINITION. The statements for the provers: each says what the machine does, and its docstring names the part of the
spec it formalises. Where the spec marks that part as its own decision, derivation or general knowledge, the docstring
says so. -/

open Sys2Proof Sys2Proof.Machine Sys2Proof.Safety

/-! ## Encoding -/

/-- DECODE AND ENCODE AGREE: every well-formed instruction of every row, with every operand at every value, decodes to
itself from its encoding, whatever bytes follow. Layout: 30_encoding.md sections 1 to 6 (general knowledge there). -/
def Obligations.DecodeOfEncode : Prop :=
  ∀ (i : Instr) (rest : List Byte), i.wf = true → decode (encode i ++ rest) = .ok i rest

/-- What the decoder answers is well formed, and it used exactly the instruction's length of bytes. -/
def Obligations.DecodedIsWellFormed : Prop :=
  ∀ (bs rest : List Byte) (i : Instr), decode bs = .ok i rest →
    i.wf = true ∧ bs.length = instrLength i + rest.length ∧ rest = bs.drop (instrLength i)

/-- Decoding depends on the instruction's own bytes only: after them any bytes may stand. -/
def Obligations.DecodeReadsOwnBytesOnly : Prop :=
  ∀ (bs rest more : List Byte) (i : Instr), decode bs = .ok i rest →
    decode (bs.take (instrLength i) ++ more) = .ok i more

/-- Twelve bytes always decide: with that many the decoder never runs out of bytes (30_encoding.md section 1). -/
def Obligations.TwelveBytesDecide : Prop :=
  ∀ bs : List Byte, 12 ≤ bs.length → decode bs ≠ .truncated

/-- The length table of 30_encoding.md section 1, read from ModRM and SIB (general knowledge there). -/
def Obligations.LengthFromModRM : Prop :=
  ∀ (p0 p1 p2 modrm sib : Byte) (bs rest : List Byte) (i : Instr),
    decode (0x62#8 :: p0 :: p1 :: p2 :: 0x26#8 :: modrm :: sib :: bs) = .ok i rest →
    instrLength i =
      (if modrm.extractLsb' 6 2 = 3#2 then 7
       else if modrm.extractLsb' 6 2 = 0#2 then
         (if modrm.extractLsb' 0 3 = 4#3 then (if sib.extractLsb' 0 3 = 5#3 then 12 else 8)
          else if modrm.extractLsb' 0 3 = 5#3 then 11 else 7)
       else if modrm.extractLsb' 6 2 = 1#2 then (if modrm.extractLsb' 0 3 = 4#3 then 9 else 8)
       else (if modrm.extractLsb' 0 3 = 4#3 then 12 else 11))

/-- Words written out from the encodings of 95_test_vectors.md section 1 (E1, E4, E9, E13, E16) decode to the
instruction they stand for, and E1 with L'L = 11 to the reserved row. -/
def Obligations.WrittenWordsDecode : Prop :=
  decode [0x62#8, 0xF3#8, 0xFD#8, 0x48#8, 0x26#8, 0xCA#8, 0x00#8] =
    .ok (.zmmReg ⟨1#5, 0#3, false, 15#4, true, 0#8⟩ 2#5) [] ∧
  decode [0x62#8, 0x83#8, 0xFD#8, 0x18#8, 0x26#8, 0xCE#8, 0x03#8] =
    .ok (.zmmSae ⟨17#5, 0#3, false, 15#4, true, 3#8⟩ 30#5) [] ∧
  decode [0x62#8, 0x23#8, 0xFD#8, 0x38#8, 0x26#8, 0x4C#8, 0x8B#8, 0x09#8, 0x02#8] =
    .ok (.ymmBcst01 ⟨25#5, 0#3, false, 15#4, true, 2#8⟩ ⟨.sib 3#4 (some ⟨9#4, 2#2⟩), 9#8⟩) [] ∧
  decode [0x62#8, 0xF3#8, 0xFD#8, 0x08#8, 0x26#8, 0x0D#8, 0x10#8, 0#8, 0#8, 0#8, 0#8] =
    .ok (.xmmMem00 ⟨1#5, 0#3, false, 15#4, true, 0#8⟩ (.rip 0x10#32)) [] ∧
  decode [0x62#8, 0xF3#8, 0xFD#8, 0x08#8, 0x26#8, 0x0C#8, 0x25#8, 0x78#8, 0x56#8, 0x34#8, 0x12#8, 0#8] =
    .ok (.xmmMem00 ⟨1#5, 0#3, false, 15#4, true, 0#8⟩ (.noBase none 0x12345678#32)) [] ∧
  decode [0x62#8, 0xF3#8, 0xFD#8, 0x68#8, 0x26#8, 0xCA#8, 0x00#8] =
    .ok (.udReg ⟨1#5, 0#3, false, 15#4, true, 0#8⟩ 2#5) []

/-- From bytes to address: an 8-bit displacement is sign-extended and multiplied by N, which is 8 for broadcast and
VL/8 else, and the base register number is B ++ rm (30_encoding.md section 4, general knowledge there). -/
def Obligations.Disp8AddressIsScaled : Prop :=
  ∀ (p0 p1 p2 modrm d8 imm : Byte) (s : State) (i : Instr) (v : RowView),
    modrm.extractLsb' 6 2 = 1#2 → modrm.extractLsb' 0 3 ≠ 4#3 →
    decode [0x62#8, p0, p1, p2, 0x26#8, modrm, d8, imm] = .ok i [] → rowView s i = some v →
    ∀ k, k < vlElements v.vl →
      elementAddr v.src k = some
        (if p0.getLsbD 5 = true ∧ (modrm.extractLsb' 0 3 = 5#3) then .stack else .data,
         s.greg (BitVec.ofBool (!p0.getLsbD 5) ++ modrm.extractLsb' 0 3) +
           d8.signExtend 64 * BitVec.ofNat 64 (if p2.getLsbD 4 then 8 else vlBits v.vl / 8) +
           BitVec.ofNat 64 (if p2.getLsbD 4 then 0 else 8 * k))

/-- From bytes to address: `mod = 00` with `rm = 101` is relative to the address of the next instruction, 11 bytes on
(30_encoding.md section 4, general knowledge there). -/
def Obligations.RipRelativeAddress : Prop :=
  ∀ (p0 p1 p2 modrm b0 b1 b2 b3 imm : Byte) (s : State) (i : Instr) (v : RowView),
    modrm.extractLsb' 6 2 = 0#2 → modrm.extractLsb' 0 3 = 5#3 →
    decode [0x62#8, p0, p1, p2, 0x26#8, modrm, b0, b1, b2, b3, imm] = .ok i [] → rowView s i = some v →
    ∀ k, k < vlElements v.vl →
      elementAddr v.src k = some
        (.data,
         s.pc + 11#64 + (b3 ++ b2 ++ b1 ++ b0).signExtend 64 + BitVec.ofNat 64 (if p2.getLsbD 4 then 0 else 8 * k))

/-- From bytes to address: with `mod = 10` and a SIB byte the address is base + index * 2^scale + disp32, the index
absent when X ++ index is 0100, and the segment is the stack segment exactly for the base register numbers 4 and 5
(30_encoding.md section 4, general knowledge there). -/
def Obligations.SibAddress : Prop :=
  ∀ (p0 p1 p2 modrm sib b0 b1 b2 b3 imm : Byte) (s : State) (i : Instr) (v : RowView),
    modrm.extractLsb' 6 2 = 2#2 → modrm.extractLsb' 0 3 = 4#3 →
    decode [0x62#8, p0, p1, p2, 0x26#8, modrm, sib, b0, b1, b2, b3, imm] = .ok i [] → rowView s i = some v →
    ∀ k, k < vlElements v.vl →
      elementAddr v.src k = some
        (byteSegment p0 (sib.extractLsb' 0 3),
         byteBase s p0 (sib.extractLsb' 0 3) + byteIndex s p0 sib + (b3 ++ b2 ++ b1 ++ b0).signExtend 64 +
           byteOffset p2 k)

/-- From bytes to address: with `mod = 01` and a SIB byte the address is base + index * 2^scale + disp8 * N, and the
segment is the stack segment exactly for the base register numbers 4 and 5 (30_encoding.md section 4, general knowledge
there). -/
def Obligations.SibDisp8Address : Prop :=
  ∀ (p0 p1 p2 modrm sib d8 imm : Byte) (s : State) (i : Instr) (v : RowView),
    modrm.extractLsb' 6 2 = 1#2 → modrm.extractLsb' 0 3 = 4#3 →
    decode [0x62#8, p0, p1, p2, 0x26#8, modrm, sib, d8, imm] = .ok i [] → rowView s i = some v →
    ∀ k, k < vlElements v.vl →
      elementAddr v.src k = some
        (byteSegment p0 (sib.extractLsb' 0 3),
         byteBase s p0 (sib.extractLsb' 0 3) + byteIndex s p0 sib +
           d8.signExtend 64 * BitVec.ofNat 64 (if p2.getLsbD 4 then 8 else vlBits v.vl / 8) + byteOffset p2 k)

/-- From bytes to address: with `mod = 00` and a SIB byte, `base = 101` means no base register, a 32-bit displacement and
the data segment; any other base means no displacement, and the stack segment exactly for base register number 4
(30_encoding.md section 4, general knowledge there). -/
def Obligations.SibMod00Address : Prop :=
  ∀ (p0 p1 p2 modrm sib : Byte) (s : State) (i : Instr) (v : RowView),
    modrm.extractLsb' 6 2 = 0#2 → modrm.extractLsb' 0 3 = 4#3 → rowView s i = some v →
    (∀ imm : Byte, sib.extractLsb' 0 3 ≠ 5#3 →
      decode [0x62#8, p0, p1, p2, 0x26#8, modrm, sib, imm] = .ok i [] →
      ∀ k, k < vlElements v.vl →
        elementAddr v.src k = some
          (byteSegment p0 (sib.extractLsb' 0 3),
           byteBase s p0 (sib.extractLsb' 0 3) + byteIndex s p0 sib + byteOffset p2 k)) ∧
    (∀ b0 b1 b2 b3 imm : Byte, sib.extractLsb' 0 3 = 5#3 →
      decode [0x62#8, p0, p1, p2, 0x26#8, modrm, sib, b0, b1, b2, b3, imm] = .ok i [] →
      ∀ k, k < vlElements v.vl →
        elementAddr v.src k = some
          (.data, byteIndex s p0 sib + (b3 ++ b2 ++ b1 ++ b0).signExtend 64 + byteOffset p2 k))

/-- From bytes to address, without a SIB byte: with `mod = 00` the address is the base register, in the data segment
(its number is neither 4 nor 5); with `mod = 10` it is the base register plus disp32, in the stack segment exactly for
base register number 5 (30_encoding.md section 4, general knowledge there). -/
def Obligations.BaseAddress : Prop :=
  ∀ (p0 p1 p2 modrm : Byte) (s : State) (i : Instr) (v : RowView),
    modrm.extractLsb' 0 3 ≠ 4#3 → rowView s i = some v →
    (∀ imm : Byte, modrm.extractLsb' 6 2 = 0#2 → modrm.extractLsb' 0 3 ≠ 5#3 →
      decode [0x62#8, p0, p1, p2, 0x26#8, modrm, imm] = .ok i [] →
      ∀ k, k < vlElements v.vl →
        elementAddr v.src k = some (.data, byteBase s p0 (modrm.extractLsb' 0 3) + byteOffset p2 k)) ∧
    (∀ b0 b1 b2 b3 imm : Byte, modrm.extractLsb' 6 2 = 2#2 →
      decode [0x62#8, p0, p1, p2, 0x26#8, modrm, b0, b1, b2, b3, imm] = .ok i [] →
      ∀ k, k < vlElements v.vl →
        elementAddr v.src k = some
          (byteSegment p0 (modrm.extractLsb' 0 3),
           byteBase s p0 (modrm.extractLsb' 0 3) + (b3 ++ b2 ++ b1 ++ b0).signExtend 64 + byteOffset p2 k))

/-! ## The step -/

/-- A STEP RUNS THE DECODED INSTRUCTION: outside 32-bit modes, when bytes that decode to an instruction stand at pc and
can be fetched, the step is `exec` of it. -/
def Obligations.StepRunsDecoded : Prop :=
  ∀ (s : State) (bs : List Byte) (i : Instr), s.ctl.mode ≠ .bits32 → BytesAt s s.pc bs → decode bs = .ok i [] →
    step s = exec i s

/-- Which bytes are this instruction (30_encoding.md section 7, decisions D6 and D30). Decoding answers an instruction
only for bytes 62, P0, P1, P2, 26 with P0[3:0] = 0011, W = 1, the fixed bit 1 and pp = 01, and for all such bytes once
12 of them stand there. Outside 32-bit modes a step refuses as not in scope: a first byte other than 62 (a legacy byte
before it included); after 62 a P0 or P1 that fails; after a good payload an opcode byte other than 26. -/
def Obligations.OtherBytesRefused : Prop :=
  (∀ (bs rest : List Byte) (i : Instr), decode bs = .ok i rest →
    ∃ (p0 p1 p2 : Byte) (tail : List Byte),
      bs = 0x62#8 :: p0 :: p1 :: p2 :: 0x26#8 :: tail ∧ PayloadInScope p0 p1) ∧
  (∀ (p0 p1 p2 : Byte) (tail : List Byte), PayloadInScope p0 p1 → 7 ≤ tail.length →
    ∃ i rest, decode (0x62#8 :: p0 :: p1 :: p2 :: 0x26#8 :: tail) = .ok i rest) ∧
  ∀ s : State, s.ctl.mode ≠ .bits32 →
    (∀ b0, BytesAt s s.pc [b0] → b0 ≠ 0x62#8 → step s = .refused .notInScope) ∧
    (∀ p0 p1 p2, BytesAt s s.pc [0x62#8, p0, p1, p2] → ¬ PayloadInScope p0 p1 → step s = .refused .notInScope) ∧
    (∀ p0 p1 p2 op, BytesAt s s.pc [0x62#8, p0, p1, p2, op] → PayloadInScope p0 p1 → op ≠ 0x26#8 →
      step s = .refused .notInScope)

/-- The first byte that decoding needs and that cannot be fetched stops the step before anything else: where the bytes
before it stand at pc and do not decide, it is #GP(0) at a non-canonical address, else #PF without permission
(60_exceptions.md sections 1 and 2, general knowledge there; that a fetch uses #GP is the model's reading, log 34), else
the refusal of a device region (the model's reading, log 38). -/
def Obligations.FetchFaultComesFirst : Prop :=
  ∀ (s : State) (bs : List Byte), s.ctl.mode ≠ .bits32 → BytesAt s s.pc bs → decode bs = .truncated →
    (canonical s.plat.vaBits (s.pc + BitVec.ofNat 64 bs.length) = false → step s = .fault .generalProtection) ∧
    (canonical s.plat.vaBits (s.pc + BitVec.ofNat 64 bs.length) = true →
      permitted s.plat.map .fetch (s.pc + BitVec.ofNat 64 bs.length) = false → step s = .fault .pageFault) ∧
    (canonical s.plat.vaBits (s.pc + BitVec.ofNat 64 bs.length) = true →
      permitted s.plat.map .fetch (s.pc + BitVec.ofNat 64 bs.length) = true →
      inDevice s.plat.map (s.pc + BitVec.ofNat 64 bs.length) = true → step s = .refused .deviceMemory)

/-- In a 32-bit mode every step and every instruction is refused (60_exceptions.md section 5, decision D1). -/
def Obligations.Mode32IsRefused : Prop :=
  ∀ s : State, s.ctl.mode = .bits32 →
    step s = .refused .notMode64 ∧ ∀ i : Instr, exec i s = .refused .notMode64

/-- What reset leaves: the table of 10_state.md section 13 for the registers (general knowledge there; the model's choice,
log 2 and, for RDX, log 3; pc is the linear address of the first fetch). The table calls memory unspecified: that the
reset memory lists nothing, so that every byte reads 0, is the model's DESIGN CHOICE of log 4 and no value of the table. -/
def Obligations.ResetValues : Prop :=
  (∀ r, State.reset.vreg r = 0#512) ∧ (∀ r, State.reset.kreg r = 0#64) ∧ State.reset.mxcsr = 0x1F80#32 ∧
  State.reset.pc = 0xFFFF0000#64 + 0xFFF0#64 ∧ (∀ r, State.reset.greg r = 0#64) ∧ State.reset.rflags = 2#64 ∧
  State.reset.ctl.cr0 = 0x60000010#64 ∧ State.reset.ctl.cr4 = 0#64 ∧ State.reset.ctl.xcr0 = 1#64 ∧
  State.reset.ctl.mode = .realAddress ∧ State.reset.ctl.cpl = 0#2 ∧ State.reset.mem = []

/-- In the reset state the instruction cannot execute: the bytes of any row, placed at pc, raise #UD (10_state.md
section 13, general knowledge there). -/
def Obligations.ResetStateRaisesUd : Prop :=
  ∀ i : Instr, i.wf = true →
    step (State.reset.setMem (placeBytes [] State.reset.pc (encode i))) = .fault .invalidOpcode

/-! ## Reserved encodings, features and enablement -/

/-- R88: the stored bits P1[6:3] are not 1111: the instruction that the bytes hold raises #UD. -/
def Obligations.ReservedVvvvRaisesUd : Prop :=
  ∀ (p0 p1 p2 : Byte) (bs rest : List Byte) (i : Instr) (s : State),
    decode (0x62#8 :: p0 :: p1 :: p2 :: bs) = .ok i rest → p1.extractLsb' 3 4 ≠ 15#4 → s.ctl.mode ≠ .bits32 →
    exec i s = .fault .invalidOpcode

/-- The other reserved encodings raise #UD: V' stored 0; z without a writemask; L'L = 11 outside the sae form
(30_encoding.md section 7, decisions D17, D18, D19). -/
def Obligations.OtherReservedEncodingsRaiseUd : Prop :=
  ∀ (p0 p1 p2 modrm : Byte) (bs rest : List Byte) (i : Instr) (s : State),
    decode (0x62#8 :: p0 :: p1 :: p2 :: 0x26#8 :: modrm :: bs) = .ok i rest → s.ctl.mode ≠ .bits32 →
    (p2.getLsbD 3 = false ∨ (p2.getLsbD 7 = true ∧ p2.extractLsb' 0 3 = 0#3) ∨
      (p2.extractLsb' 5 2 = 3#2 ∧ ¬ (modrm.extractLsb' 6 2 = 3#2 ∧ p2.getLsbD 4 = true))) →
    exec i s = .fault .invalidOpcode

/-- The four reserved rows stop on every path: #UD, and the refusal of a 32-bit mode (30_encoding.md section 7,
decision D19). -/
def Obligations.ReservedRowsAlwaysStop : Prop :=
  ∀ (e : Evex) (s : State), s.ctl.mode ≠ .bits32 →
    (∀ src, exec (.udReg e src) s = .fault .invalidOpcode) ∧
    (∀ b a, exec (.udMem00 e b a) s = .fault .invalidOpcode) ∧
    (∀ b a, exec (.udMem01 e b a) s = .fault .invalidOpcode) ∧
    (∀ b a, exec (.udMem10 e b a) s = .fault .invalidOpcode)

/-- A missing CPUID feature or an enablement bit that is not set raises #UD, for every row (30_encoding.md section 7,
60_exceptions.md section 1, decision D20). -/
def Obligations.MissingEnablementRaisesUd : Prop :=
  ∀ (i : Instr) (s : State) (v : RowView), s.ctl.mode ≠ .bits32 → rowView s i = some v →
    (s.ctl.avx512f = false ∨ (v.vl ≠ .v512 ∧ s.ctl.avx512vl = false) ∨ s.ctl.osxsave = false ∨
      s.ctl.xcr0.extractLsb' 1 2 ≠ 3#2 ∨ s.ctl.xcr0.extractLsb' 5 3 ≠ 7#3) →
    exec i s = .fault .invalidOpcode

/-- CR0.TS = 1 raises #NM once every #UD condition is absent, before any operand is read (60_exceptions.md sections 1
and 2, decision D20). -/
def Obligations.TaskSwitchedRaisesNm : Prop :=
  ∀ (i : Instr) (s : State) (v : RowView), rowView s i = some v → s.ctl.ts = true →
    Runnable v.vl i.evex { s with ctl := { s.ctl with cr0 := s.ctl.cr0 &&& ~~~ 8#64 } } →
    exec i s = .fault .deviceNotAvailable

/-- imm8[7:4] not zero: refused under the policy `refuse`, #UD under `ud`, once every other #UD condition is absent;
under `ignore` the instruction is the one with those bits zero (30_encoding.md section 5, decision D16; the policy is
the model's field, log 13). -/
def Obligations.ImmHighBitsPolicy : Prop :=
  ∀ (i : Instr) (s : State) (v : RowView), rowView s i = some v → i.evex.imm8.extractLsb' 4 4 ≠ 0#4 →
    (s.plat.immHi = .refuse → Mode64 s → FieldsLegal i.evex → VectorStateEnabled v.vl s →
      exec i s = .refused .immHighBits) ∧
    (s.plat.immHi = .ud → s.ctl.mode ≠ .bits32 → exec i s = .fault .invalidOpcode) ∧
    (s.plat.immHi = .ignore → exec i s = exec (withImm (i.evex.imm8 &&& 0x0F#8) i) s)

/-! ## Each row completes, with its result and its frame -/

/-- `VGETMANTPD xmm1, xmm2`: lanes, upper bits, flags, pc and frame (40_vgetmantpd.md sections 3 and 4). -/
def Obligations.XmmRegisterRowCompletes : Prop :=
  ∀ (e : Evex) (src : VReg) (s : State), Runnable .v128 e s → SignalsMasked .v128 (double (s.vreg src)) e s →
    Completes .v128 (double (s.vreg src)) e 7 s (exec (.xmmReg e src) s)

/-- `VGETMANTPD ymm1, ymm2`: lanes, upper bits, flags, pc and frame (40_vgetmantpd.md sections 3 and 4). -/
def Obligations.YmmRegisterRowCompletes : Prop :=
  ∀ (e : Evex) (src : VReg) (s : State), Runnable .v256 e s → SignalsMasked .v256 (double (s.vreg src)) e s →
    Completes .v256 (double (s.vreg src)) e 7 s (exec (.ymmReg e src) s)

/-- `VGETMANTPD zmm1, zmm2`: lanes, flags, pc and frame (40_vgetmantpd.md sections 3 and 4). -/
def Obligations.ZmmRegisterRowCompletes : Prop :=
  ∀ (e : Evex) (src : VReg) (s : State), Runnable .v512 e s → SignalsMasked .v512 (double (s.vreg src)) e s →
    Completes .v512 (double (s.vreg src)) e 7 s (exec (.zmmReg e src) s)

/-- `VGETMANTPD zmm1, zmm2 with sae`: completes whatever MXCSR.IM and MXCSR.DM hold, and MXCSR is unchanged
(40_vgetmantpd.md section 4, decision D15). -/
def Obligations.SaeRowCompletes : Prop :=
  ∀ (e : Evex) (src : VReg) (s : State), Runnable .v512 e s →
    CompletesSae (double (s.vreg src)) e 7 s (exec (.zmmSae e src) s)

/-- `VGETMANTPD xmm1, m128` in its three rows (40_vgetmantpd.md sections 3 and 4; 20_memory.md sections 1 to 3). -/
def Obligations.XmmMemoryRowsComplete : Prop :=
  ∀ (e : Evex) (s : State),
    (∀ a, MemoryRowCompletes .v128 e (ea00 s (len00 a) a) (len00 a) s (exec (.xmmMem00 e a) s)) ∧
    (∀ a, MemoryRowCompletes .v128 e (ea01 s 16 a) (len01 a) s (exec (.xmmMem01 e a) s)) ∧
    (∀ a, MemoryRowCompletes .v128 e (ea10 s a) (len10 a) s (exec (.xmmMem10 e a) s))

/-- `VGETMANTPD ymm1, m256` in its three rows (40_vgetmantpd.md sections 3 and 4; 20_memory.md sections 1 to 3). -/
def Obligations.YmmMemoryRowsComplete : Prop :=
  ∀ (e : Evex) (s : State),
    (∀ a, MemoryRowCompletes .v256 e (ea00 s (len00 a) a) (len00 a) s (exec (.ymmMem00 e a) s)) ∧
    (∀ a, MemoryRowCompletes .v256 e (ea01 s 32 a) (len01 a) s (exec (.ymmMem01 e a) s)) ∧
    (∀ a, MemoryRowCompletes .v256 e (ea10 s a) (len10 a) s (exec (.ymmMem10 e a) s))

/-- `VGETMANTPD zmm1, m512` in its three rows (40_vgetmantpd.md sections 3 and 4; 20_memory.md sections 1 to 3). -/
def Obligations.ZmmMemoryRowsComplete : Prop :=
  ∀ (e : Evex) (s : State),
    (∀ a, MemoryRowCompletes .v512 e (ea00 s (len00 a) a) (len00 a) s (exec (.zmmMem00 e a) s)) ∧
    (∀ a, MemoryRowCompletes .v512 e (ea01 s 64 a) (len01 a) s (exec (.zmmMem01 e a) s)) ∧
    (∀ a, MemoryRowCompletes .v512 e (ea10 s a) (len10 a) s (exec (.zmmMem10 e a) s))

/-- `VGETMANTPD xmm1, m64bcst` in its three rows (40_vgetmantpd.md sections 3 and 4; 20_memory.md sections 1 to 3). -/
def Obligations.XmmBroadcastRowsComplete : Prop :=
  ∀ (e : Evex) (s : State),
    (∀ a, BroadcastRowCompletes .v128 e (ea00 s (len00 a) a) (len00 a) s (exec (.xmmBcst00 e a) s)) ∧
    (∀ a, BroadcastRowCompletes .v128 e (ea01 s 8 a) (len01 a) s (exec (.xmmBcst01 e a) s)) ∧
    (∀ a, BroadcastRowCompletes .v128 e (ea10 s a) (len10 a) s (exec (.xmmBcst10 e a) s))

/-- `VGETMANTPD ymm1, m64bcst` in its three rows (40_vgetmantpd.md sections 3 and 4; 20_memory.md sections 1 to 3). -/
def Obligations.YmmBroadcastRowsComplete : Prop :=
  ∀ (e : Evex) (s : State),
    (∀ a, BroadcastRowCompletes .v256 e (ea00 s (len00 a) a) (len00 a) s (exec (.ymmBcst00 e a) s)) ∧
    (∀ a, BroadcastRowCompletes .v256 e (ea01 s 8 a) (len01 a) s (exec (.ymmBcst01 e a) s)) ∧
    (∀ a, BroadcastRowCompletes .v256 e (ea10 s a) (len10 a) s (exec (.ymmBcst10 e a) s))

/-- `VGETMANTPD zmm1, m64bcst` in its three rows (40_vgetmantpd.md sections 3 and 4; 20_memory.md sections 1 to 3). -/
def Obligations.ZmmBroadcastRowsComplete : Prop :=
  ∀ (e : Evex) (s : State),
    (∀ a, BroadcastRowCompletes .v512 e (ea00 s (len00 a) a) (len00 a) s (exec (.zmmBcst00 e a) s)) ∧
    (∀ a, BroadcastRowCompletes .v512 e (ea01 s 8 a) (len01 a) s (exec (.zmmBcst01 e a) s)) ∧
    (∀ a, BroadcastRowCompletes .v512 e (ea10 s a) (len10 a) s (exec (.zmmBcst10 e a) s))

/-! ## Rules over all rows -/

/-- R128: after any row completes, bits [511:VL] of the destination are zero, whatever the mask and whatever z; with an
all-zero mask under merging bits [VL-1:0] are unchanged. -/
def Obligations.UpperBitsCleared : Prop :=
  ∀ (i : Instr) (s t : State) (v : RowView), rowView s i = some v → exec i s = .next t →
    (t.vreg i.evex.dest) >>> vlBits v.vl = 0#512 ∧
    ((∀ k, k < vlElements v.vl → ¬ LaneActive s i.evex k) → i.evex.z = false →
      (t.vreg i.evex.dest).setWidth (vlBits v.vl) = (s.vreg i.evex.dest).setWidth (vlBits v.vl))

/-- R153: when every exception that is signalled is masked, a row whose active elements can be read completes: each
active lane is the element that getmant_fp64 returns, and, outside the sae form, what a lane signals sets its flag. -/
def Obligations.MaskedResponse : Prop :=
  ∀ (i : Instr) (s : State) (v : RowView), rowView s i = some v → Runnable v.vl i.evex s →
    (∀ k, k < vlElements v.vl → LaneActive s i.evex k → ElementReadable s v.src k) →
    SignalsMasked v.vl (elementValue s v.src) i.evex s →
    ∃ t, exec i s = .next t ∧
      ∀ k, k < vlElements v.vl → LaneActive s i.evex k →
        double (t.vreg i.evex.dest) k = (mantFor s i.evex (elementValue s v.src k)).value ∧
        (v.sae = false → (mantFor s i.evex (elementValue s v.src k)).ie = true → t.mxcsr.getLsbD 0 = true) ∧
        (v.sae = false → (mantFor s i.evex (elementValue s v.src k)).de = true → t.mxcsr.getLsbD 1 = true)

/-- An unmasked exception of an active lane stops every row but the sae one, once the active elements have been read:
#XM, or #UD when CR4.OSXMMEXCPT is 0 (60_exceptions.md section 1, decision D14). -/
def Obligations.UnmaskedExceptionTraps : Prop :=
  ∀ (i : Instr) (s : State) (v : RowView), rowView s i = some v → v.sae = false → Runnable v.vl i.evex s →
    (∀ k, k < vlElements v.vl → LaneActive s i.evex k → ElementReadable s v.src k) →
    ¬ SignalsMasked v.vl (elementValue s v.src) i.evex s →
    exec i s = .fault (if s.ctl.osxmmexcpt then .simdFloatingPoint else .invalidOpcode)

/-- A memory fault of some active element, with no active element in a device region, stops the row with the fault of
an active element (20_memory.md section 3, 60_exceptions.md section 2; which one is free, log 11). -/
def Obligations.MemoryFaultIsReported : Prop :=
  ∀ (i : Instr) (s : State) (v : RowView), rowView s i = some v → Runnable v.vl i.evex s →
    (∀ k p, k < vlElements v.vl → LaneActive s i.evex k → elementAddr v.src k = some p →
      ∀ j, j < 8 → inDevice s.plat.map (p.2 + BitVec.ofNat 64 j) = false) →
    (∃ k p, k < vlElements v.vl ∧ LaneActive s i.evex k ∧ elementAddr v.src k = some p ∧
      (memFault s .dataRead p.1 p.2 8).isSome = true) →
    ∃ k p f, k < vlElements v.vl ∧ LaneActive s i.evex k ∧ elementAddr v.src k = some p ∧
      memFault s .dataRead p.1 p.2 8 = some f ∧ exec i s = .fault f

/-- The fault of one 8-byte read: a non-canonical byte gives #SS(0) for the stack segment and #GP(0) else, before any
page fault; then a byte without permission gives #PF (60_exceptions.md sections 1 and 2, general knowledge there). -/
def Obligations.ElementFaultKinds : Prop :=
  ∀ (s : State) (seg : Segment) (a : Word),
    ((∃ j, j < 8 ∧ canonical s.plat.vaBits (a + BitVec.ofNat 64 j) = false) →
      memReadDouble s seg a = .fault (if seg = .stack then .stackSegment else .generalProtection)) ∧
    ((∀ j, j < 8 → canonical s.plat.vaBits (a + BitVec.ofNat 64 j) = true) →
      (∃ j, j < 8 ∧ permitted s.plat.map .dataRead (a + BitVec.ofNat 64 j) = false) →
      memReadDouble s seg a = .fault .pageFault) ∧
    (ReadableDouble s a → memReadDouble s seg a = .next (doubleAt s a))

/-- An active element in a device region is refused, where its own read does not fault (20_memory.md section 3,
decision D13; that a refusal comes before another element's fault is the model's choice, log 15). -/
def Obligations.DeviceReadIsRefused : Prop :=
  ∀ (i : Instr) (s : State) (v : RowView), rowView s i = some v → Runnable v.vl i.evex s →
    (∃ k p, k < vlElements v.vl ∧ LaneActive s i.evex k ∧ elementAddr v.src k = some p ∧
      memFault s .dataRead p.1 p.2 8 = none ∧ ∃ j, j < 8 ∧ inDevice s.plat.map (p.2 + BitVec.ofNat 64 j) = true) →
    exec i s = .refused .deviceMemory

/-- With no active lane nothing is read and nothing signalled: every row completes whatever memory holds or forbids,
and MXCSR is unchanged (20_memory.md section 3, decisions D9 and D28). -/
def Obligations.NoActiveLaneReadsNothing : Prop :=
  ∀ (i : Instr) (s : State) (v : RowView), rowView s i = some v → Runnable v.vl i.evex s →
    (∀ k, k < vlElements v.vl → ¬ LaneActive s i.evex k) →
    ∃ t, exec i s = .next t ∧ t.mxcsr = s.mxcsr ∧ Frame i.evex.dest s t ∧
      ∀ k, k < vlElements v.vl →
        double (t.vreg i.evex.dest) k = if i.evex.z then 0#64 else double (s.vreg i.evex.dest) k

/-- The results of the sae row are those of the register row (40_vgetmantpd.md section 4, decision D15). -/
def Obligations.SaeResultsEqualRegisterRow : Prop :=
  ∀ (e : Evex) (src : VReg) (s t u : State), exec (.zmmReg e src) s = .next t → exec (.zmmSae e src) s = .next u →
    u = { t with mxcsr := s.mxcsr }

/-- Only MXCSR bits IE, DE, DAZ, IM and DM matter: two states that differ in other MXCSR bits only (rounding control,
FTZ, other masks and flags) give outcomes that differ in those bits only (40_vgetmantpd.md section 3, derived there). -/
def Obligations.OtherMxcsrBitsDoNotMatter : Prop :=
  ∀ (i : Instr) (s : State) (m : BitVec 32), m &&& 0x1C3#32 = s.mxcsr &&& 0x1C3#32 →
    exec i (s.setMxcsr m) = mapNext (fun t => t.setMxcsr (m ||| (t.mxcsr &&& 3#32))) (exec i s)

/-- The instruction executes identically at every privilege level (60_exceptions.md section 5, decision D24). -/
def Obligations.PrivilegeDoesNotMatter : Prop :=
  ∀ (i : Instr) (s : State) (c : BitVec 2),
    exec i { s with ctl := { s.ctl with cpl := c } } =
      mapNext (fun t => { t with ctl := { t.ctl with cpl := c } }) (exec i s)

/-- R122: an active element is computed and written, an inactive one is zeroed under z = 1 and kept under z = 0; only
active elements signal; an inactive element reads no memory (with any other memory and map that reads the same at the
active elements the outcome is the same); mask bits at KL and above are ignored. -/
def Obligations.WritemaskRule : Prop :=
  ∀ (i : Instr) (s : State) (v : RowView), rowView s i = some v →
    (∀ t, exec i s = .next t →
      LanesWritten v.vl (elementValue s v.src) i.evex s t ∧
      (t.mxcsr.getLsbD 0 = true → s.mxcsr.getLsbD 0 = true ∨ SignalsInvalid v.vl (elementValue s v.src) i.evex s) ∧
      (t.mxcsr.getLsbD 1 = true → s.mxcsr.getLsbD 1 = true ∨ SignalsDenormal v.vl (elementValue s v.src) i.evex s)) ∧
    (∀ (m : Memory) (map : List Region),
      (∀ k, k < vlElements v.vl → LaneActive s i.evex k →
        sourceElement { s with mem := m, plat := { s.plat with map := map } } v.src k = sourceElement s v.src k) →
      exec i { s with mem := m, plat := { s.plat with map := map } } =
        mapNext (fun t => { t with mem := m, plat := { t.plat with map := map } }) (exec i s)) ∧
    (∀ ks : Vector (BitVec 64) 8,
      (∀ k, k < vlElements v.vl →
        (ks[i.evex.aaa.toNat]'i.evex.aaa.isLt).getLsbD k = (s.kreg i.evex.aaa).getLsbD k) →
      exec i { s with k := ks } = mapNext (fun t => { t with k := ks }) (exec i s))

/-- Elements are independent: element `k` of a completed result depends only on whether lane `k` is active, element `k`
of the source, element `k` of the old destination, z, imm8[3:0] and DAZ, whatever row, length and source kind computes
it (40_vgetmantpd.md section 3). -/
def Obligations.ElementsAreIndependent : Prop :=
  ∀ (i j : Instr) (s s' t t' : State) (v v' : RowView) (k : Nat),
    rowView s i = some v → rowView s' j = some v' → k < vlElements v.vl → k < vlElements v'.vl →
    (LaneActive s i.evex k ↔ LaneActive s' j.evex k) → i.evex.z = j.evex.z →
    i.evex.imm8.extractLsb' 0 4 = j.evex.imm8.extractLsb' 0 4 → s.mxcsr.getLsbD 6 = s'.mxcsr.getLsbD 6 →
    (LaneActive s i.evex k → elementValue s v.src k = elementValue s' v'.src k) →
    (¬ LaneActive s i.evex k → double (s.vreg i.evex.dest) k = double (s'.vreg j.evex.dest) k) →
    exec i s = .next t → exec j s' = .next t' →
    double (t.vreg i.evex.dest) k = double (t'.vreg j.evex.dest) k

/-! ## The element function -/

/-- R112, step by step: the classes in their order, and for a source that is finite and not zero the exponent E and
fraction F of step 4 (the loop ends at the first iteration n that shifts a 1 out), the exponent field of step 5 and the
element of step 6; Invalid and Denormal are never both signalled. -/
def Obligations.ElementFunction : Prop :=
  ∀ (x : Word) (sc iv : BitVec 2) (daz : Bool),
    let nan := expOf x = 0x7FF#11 ∧ fracOf x ≠ 0#52
    let zero := expOf x = 0#11 ∧ (fracOf x = 0#52 ∨ daz = true)
    let denormal := expOf x = 0#11 ∧ fracOf x ≠ 0#52 ∧ daz = false
    let infinity := expOf x = 0x7FF#11 ∧ fracOf x = 0#52
    let one := if sc.getLsbD 0 then 0x3FF0000000000000#64 else 0xBFF0000000000000#64
    let r := getmant x sc iv daz
    (nan → r = ⟨qnan x, !(fracOf x).getLsbD 51, false⟩) ∧
    (¬ nan → x.getLsbD 63 = false → zero ∨ infinity → r = ⟨0x3FF0000000000000#64, false, false⟩) ∧
    (¬ nan → x.getLsbD 63 = true → zero → r = ⟨one, false, false⟩) ∧
    (¬ nan → x.getLsbD 63 = true → infinity →
      r = if sc.getLsbD 1 then ⟨qnanIndefinite, true, false⟩ else ⟨one, false, false⟩) ∧
    (¬ nan → x.getLsbD 63 = true → ¬ zero → ¬ infinity → sc.getLsbD 1 = true → r = ⟨qnanIndefinite, true, false⟩) ∧
    (¬ nan → ¬ zero → ¬ infinity → (x.getLsbD 63 = false ∨ sc.getLsbD 1 = false) →
      ∃ (exp : BitVec 11) (frac : BitVec 52),
        ((¬ denormal ∧ r.de = false ∧ exp = expOf x ∧ frac = fracOf x) ∨
          (denormal ∧ r.de = true ∧ ∃ n, 1 ≤ n ∧ n ≤ 52 ∧ (fracOf x).getLsbD (52 - n) = true ∧
            (∀ m, 1 ≤ m → m < n → (fracOf x).getLsbD (52 - m) = false) ∧
            exp = 1023#11 - BitVec.ofNat 11 n ∧ frac = fracOf x <<< n)) ∧
        r.ie = false ∧
        r.value =
          BitVec.ofBool (x.getLsbD 63 && !sc.getLsbD 0) ++
            (if iv = 0#2 then 1023#11
             else if iv = 1#2 then (if ((exp.toNat : ℤ) - 1023) % 2 = 1 then 1022#11 else 1023#11)
             else if iv = 2#2 then 1022#11
             else (if frac.getLsbD 51 then 1022#11 else 1023#11)) ++ frac) ∧
    ¬ (r.ie = true ∧ r.de = true)

/-- Special elements (40_vgetmantpd.md section 2, rows 1 to 8 of the case table, derived there): NaNs, infinities,
zeros, and negative numbers with sc[1] = 1, with their flags; the interval does not matter. -/
def Obligations.SpecialElements : Prop :=
  ∀ (x : Word) (sc iv : BitVec 2) (daz : Bool),
    (expOf x = 0x7FF#11 → fracOf x ≠ 0#52 → (fracOf x).getLsbD 51 = false →
      getmant x sc iv daz = ⟨x ||| 0x0008000000000000#64, true, false⟩) ∧
    (expOf x = 0x7FF#11 → (fracOf x).getLsbD 51 = true → getmant x sc iv daz = ⟨x, false, false⟩) ∧
    (x = 0x7FF0000000000000#64 → getmant x sc iv daz = ⟨0x3FF0000000000000#64, false, false⟩) ∧
    (expOf x = 0#11 → (fracOf x = 0#52 ∨ daz = true) → x.getLsbD 63 = false →
      getmant x sc iv daz = ⟨0x3FF0000000000000#64, false, false⟩) ∧
    (expOf x = 0#11 → (fracOf x = 0#52 ∨ daz = true) → x.getLsbD 63 = true →
      getmant x sc iv daz =
        ⟨if sc.getLsbD 0 then 0x3FF0000000000000#64 else 0xBFF0000000000000#64, false, false⟩) ∧
    (x = 0xFFF0000000000000#64 → sc.getLsbD 1 = false →
      getmant x sc iv daz =
        ⟨if sc.getLsbD 0 then 0x3FF0000000000000#64 else 0xBFF0000000000000#64, false, false⟩) ∧
    (x.getLsbD 63 = true → sc.getLsbD 1 = true → (expOf x = 0x7FF#11 → fracOf x = 0#52) →
      (expOf x = 0#11 → fracOf x ≠ 0#52 ∧ daz = false) →
      getmant x sc iv daz = ⟨0xFFF8000000000000#64, true, false⟩)

/-- Denormal elements (40_vgetmantpd.md section 2, closed form of step 4, derived there): with p the highest set bit of
the fraction, the result's fraction is (f - 2^p) shifted left by 52 - p, the parity is that of p, and Denormal is
signalled. -/
def Obligations.DenormalElements : Prop :=
  ∀ (x : Word) (sc iv : BitVec 2) (p : Nat), expOf x = 0#11 → p < 52 → (fracOf x).getLsbD p = true →
    (∀ q, p < q → (fracOf x).getLsbD q = false) → (x.getLsbD 63 = false ∨ sc.getLsbD 1 = false) →
    let r := getmant x sc iv false
    (fracOf r.value).toNat = ((fracOf x).toNat - 2 ^ p) * 2 ^ (52 - p) ∧
      r.value.getLsbD 63 = (x.getLsbD 63 && !sc.getLsbD 0) ∧ r.ie = false ∧ r.de = true ∧
      expOf r.value =
        (if iv = 0#2 then 1023#11
         else if iv = 1#2 then (if p % 2 = 1 then 1022#11 else 1023#11)
         else if iv = 2#2 then 1022#11
         else (if (fracOf r.value).getLsbD 51 then 1022#11 else 1023#11))

/-- As real numbers (40_vgetmantpd.md section 2, closed form of steps 4 to 6, derived there): a finite source that is
not in class zero is ±m * 2^t with 1 <= m < 2, and the result's magnitude is exactly m * 2^k, k being 0 or -1 by the
interval, the parity of t and m. -/
def Obligations.RealValueOfResult : Prop :=
  ∀ (x : Word) (sc iv : BitVec 2) (daz : Bool), expOf x ≠ 0x7FF#11 →
    (expOf x = 0#11 → fracOf x ≠ 0#52 ∧ daz = false) → (x.getLsbD 63 = false ∨ sc.getLsbD 1 = false) →
    ∃ (m : ℚ) (t : ℤ), 1 ≤ m ∧ m < 2 ∧ |realValue x| = m * (2 : ℚ) ^ t ∧
      |realValue (getmant x sc iv daz).value| = m * (2 : ℚ) ^ (resultScale iv t m)

/-- Every result is a NaN or has exponent field 1022 or 1023; a denormal is never produced (40_vgetmantpd.md section 3,
derived there). -/
def Obligations.ResultExponentField : Prop :=
  ∀ (x : Word) (sc iv : BitVec 2) (daz : Bool),
    isNan (getmant x sc iv daz).value = true ∨
      expOf (getmant x sc iv daz).value = 1022#11 ∨ expOf (getmant x sc iv daz).value = 1023#11

/-- When an element signals Invalid and when Denormal, and never both (60_exceptions.md section 1, derived there). -/
def Obligations.SignalConditions : Prop :=
  ∀ (x : Word) (sc iv : BitVec 2) (daz : Bool),
    ((getmant x sc iv daz).ie = true ↔
      (expOf x = 0x7FF#11 ∧ fracOf x ≠ 0#52 ∧ (fracOf x).getLsbD 51 = false) ∨
      (sc.getLsbD 1 = true ∧ x.getLsbD 63 = true ∧ (expOf x = 0x7FF#11 → fracOf x = 0#52) ∧
        ¬ (expOf x = 0#11 ∧ (fracOf x = 0#52 ∨ daz = true)))) ∧
    ((getmant x sc iv daz).de = true ↔
      expOf x = 0#11 ∧ fracOf x ≠ 0#52 ∧ daz = false ∧ (x.getLsbD 63 = false ∨ sc.getLsbD 1 = false)) ∧
    ¬ ((getmant x sc iv daz).ie = true ∧ (getmant x sc iv daz).de = true)

/-- The sign of the result, case by case (40_vgetmantpd.md section 2, derived there). -/
def Obligations.SignOfResult : Prop :=
  ∀ (x : Word) (sc iv : BitVec 2) (daz : Bool),
    (getmant x sc iv daz).value.getLsbD 63 =
      (if isNan x then x.getLsbD 63
       else if x.getLsbD 63 = false then false
       else if isZero x daz then !sc.getLsbD 0
       else if sc.getLsbD 1 then true
       else !sc.getLsbD 0)

/-! ## Invariants and runs -/

/-- The frame of one step (10_state.md section 12, derived there): a step that goes on advances pc by an instruction's
length and changes at most one vector register and the two flags, which it only sets; memory and all else is as it was. -/
def Obligations.StepFrame : Prop :=
  ∀ s t : State, step s = .next t →
    (∃ d, Frame d s t) ∧ t.mem = s.mem ∧ s.mxcsr &&& t.mxcsr = s.mxcsr ∧
      ∃ len, (len = 7 ∨ len = 8 ∨ len = 9 ∨ len = 11 ∨ len = 12) ∧ t.pc = s.pc + BitVec.ofNat 64 len

/-- AN INVARIANT THAT EVERY STEP KEEPS: memory in canonical form (the model's own form, log 4) and the reserved bits of
MXCSR zero (10_state.md section 5, general knowledge there). -/
def Obligations.StepKeepsInv : Prop :=
  ∀ s t : State, Inv s → step s = .next t → Inv t

/-- The invariant holds at reset. -/
def Obligations.ResetMeetsInv : Prop := Inv State.reset

/-- Along a run of n instructions that ends well (70_reset_and_hazards.md section 5, decision D21; 10_state.md sections
5 and 12): pc has moved by the sum of n instruction lengths, the flags are only set, and opmasks, general registers,
control state, platform and memory are as at launch. -/
def Obligations.RunFrame : Prop :=
  ∀ (n : Nat) (s t : State), RunEnds n s t →
    (∃ lens : List Nat, lens.length = n ∧
      (∀ l, l ∈ lens → l = 7 ∨ l = 8 ∨ l = 9 ∨ l = 11 ∨ l = 12) ∧ t.pc = s.pc + BitVec.ofNat 64 lens.sum) ∧
    s.mxcsr &&& t.mxcsr = s.mxcsr ∧ t.mxcsr &&& ~~~ 3#32 = s.mxcsr &&& ~~~ 3#32 ∧
    t.k = s.k ∧ t.gpr = s.gpr ∧ t.rflags = s.rflags ∧ t.ctl = s.ctl ∧ t.mem = s.mem ∧ t.plat = s.plat

/-- A vector register keeps its value along a run in which no executed instruction has it as destination: stated for
one step, on the decoded instruction (10_state.md section 12, derived there). -/
def Obligations.OnlyTheDestinationChanges : Prop :=
  ∀ (s t : State) (bs : List Byte) (i : Instr) (r : VReg), BytesAt s s.pc bs → decode bs = .ok i [] →
    step s = .next t → r ≠ i.evex.dest → t.vreg r = s.vreg r
end

