-- ==== Sys2Proof/Laws/Memory.lean ====
section
/-! SUPPORT. Memory: reading after a write, and every memory operation keeps the canonical form. -/

namespace Sys2Proof.Machine

@[simp] theorem readByte_nil (a : Nat) : readByte [] a = unlistedByte := rfl

theorem readByte_cons (x : Nat) (b : Byte) (t : Memory) (a : Nat) :
    readByte ((x, b) :: t) a = if x = a then b else readByte t a := rfl

/-- An address below every listed one reads as unlisted. -/
theorem readByte_of_lt {lo a : Nat} {m : Memory} (h : Memory.wfFrom lo m = true) (ha : a < lo) :
    readByte m a = unlistedByte := by
  induction m generalizing lo with
  | nil => rfl
  | cons c t ih =>
    obtain ⟨x, b⟩ := c
    simp only [Memory.wfFrom, Bool.and_eq_true, decide_eq_true_eq] at h
    rw [readByte_cons, if_neg (by omega)]
    exact ih h.2 (by omega)

theorem Memory.wfFrom_mono {lo lo' : Nat} {m : Memory} (h : Memory.wfFrom lo' m = true) (hl : lo ≤ lo') :
    Memory.wfFrom lo m = true := by
  cases m with
  | nil => rfl
  | cons c t =>
    obtain ⟨x, b⟩ := c
    simp only [Memory.wfFrom, Bool.and_eq_true, decide_eq_true_eq] at h ⊢
    exact ⟨⟨⟨by omega, h.1.1.2⟩, h.1.2⟩, h.2⟩

/-- Reading the byte just written. -/
theorem readByte_writeByte_same {lo : Nat} {m : Memory} (h : Memory.wfFrom lo m = true) (a : Nat) (v : Byte) :
    readByte (writeByte m a v) a = v := by
  induction m generalizing lo with
  | nil => by_cases hv : v = unlistedByte <;> simp [writeByte, readByte_cons, hv]
  | cons c t ih =>
    obtain ⟨x, b⟩ := c
    simp only [Memory.wfFrom, Bool.and_eq_true, decide_eq_true_eq] at h
    have below : a ≤ x → readByte t a = unlistedByte := fun hx => readByte_of_lt h.2 (by omega)
    rcases Nat.lt_trichotomy x a with hx | hx | hx
    · simp [writeByte, hx, readByte_cons, Nat.ne_of_lt hx, ih h.2]
    · by_cases hv : v = unlistedByte <;> simp [writeByte, hx, hv, readByte_cons, below (by omega)]
    · by_cases hv : v = unlistedByte <;>
        simp [writeByte, Nat.not_lt_of_gt hx, Nat.ne_of_gt hx, hv, readByte_cons, below (by omega)]

/-- A write leaves every other byte alone. -/
theorem readByte_writeByte_other (m : Memory) {a a' : Nat} (v : Byte) (h : a' ≠ a) :
    readByte (writeByte m a v) a' = readByte m a' := by
  induction m with
  | nil => by_cases hv : v = unlistedByte <;> simp [writeByte, readByte_cons, hv, h.symm]
  | cons c t ih =>
    obtain ⟨x, b⟩ := c
    rcases Nat.lt_trichotomy x a with hx | hx | hx
    · simp [writeByte, hx, readByte_cons, ih]
    · subst hx
      by_cases hv : v = unlistedByte <;> simp [writeByte, hv, readByte_cons, h.symm]
    · by_cases hv : v = unlistedByte <;>
        simp [writeByte, Nat.not_lt_of_gt hx, Nat.ne_of_gt hx, hv, readByte_cons, h.symm]

theorem writeByte_wfFrom {lo : Nat} {m : Memory} (h : Memory.wfFrom lo m = true) {a : Nat} (hlo : lo ≤ a)
    (ha : a < 2 ^ 64) (v : Byte) : Memory.wfFrom lo (writeByte m a v) = true := by
  induction m generalizing lo with
  | nil => by_cases hv : v = unlistedByte <;> simp_all [writeByte, Memory.wfFrom]
  | cons c t ih =>
    obtain ⟨x, b⟩ := c
    have h' := h
    simp only [Memory.wfFrom, Bool.and_eq_true, decide_eq_true_eq] at h'
    obtain ⟨⟨⟨hx1, hx2⟩, hb⟩, ht⟩ := h'
    rcases Nat.lt_trichotomy x a with hx | hx | hx
    · simp only [writeByte, hx, if_true, Memory.wfFrom, Bool.and_eq_true, decide_eq_true_eq]
      exact ⟨⟨⟨hx1, hx2⟩, hb⟩, ih ht (by omega)⟩
    · subst hx
      by_cases hv : v = unlistedByte
      · simpa [writeByte, hv] using Memory.wfFrom_mono ht (by omega)
      · simp_all [writeByte, Memory.wfFrom]
    · by_cases hv : v = unlistedByte
      · simpa [writeByte, Nat.not_lt_of_gt hx, Nat.ne_of_gt hx, hv] using h
      · simp [writeByte, Nat.not_lt_of_gt hx, Nat.ne_of_gt hx, hv, Memory.wfFrom, hlo, ht, hb]
        omega

/-- Writing a byte keeps the canonical form. -/
theorem writeByte_wf {m : Memory} (h : Memory.wf m = true) {a : Nat} (ha : a < 2 ^ 64) (v : Byte) :
    Memory.wf (writeByte m a v) = true := writeByte_wfFrom h (Nat.zero_le a) ha v

/-- Storing a list of bytes keeps the canonical form. -/
theorem placeBytes_wf {m : Memory} (h : Memory.wf m = true) (a : Word) (bs : List Byte) :
    Memory.wf (placeBytes m a bs) = true := by
  induction bs generalizing m a with
  | nil => exact h
  | cons b bs ih => exact ih (writeByte_wf h a.isLt b) (a + 1#64)

theorem reset_mem_wf : Memory.wf State.reset.mem = true := rfl

end Sys2Proof.Machine
end

