-- ==== Sys2Proof/Laws/State.lean ====
section
/-! SUPPORT. One lemma per field and update of State, so that no proof unfolds a record update, and the register file's
read-after-write laws. -/

namespace Sys2Proof.Machine

@[simp] theorem State.setVreg_k (s : State) (r : VReg) (v : Zmm) : (s.setVreg r v).k = s.k := rfl
@[simp] theorem State.setVreg_mxcsr (s : State) (r : VReg) (v : Zmm) : (s.setVreg r v).mxcsr = s.mxcsr := rfl
@[simp] theorem State.setVreg_pc (s : State) (r : VReg) (v : Zmm) : (s.setVreg r v).pc = s.pc := rfl
@[simp] theorem State.setVreg_gpr (s : State) (r : VReg) (v : Zmm) : (s.setVreg r v).gpr = s.gpr := rfl
@[simp] theorem State.setVreg_rflags (s : State) (r : VReg) (v : Zmm) : (s.setVreg r v).rflags = s.rflags := rfl
@[simp] theorem State.setVreg_ctl (s : State) (r : VReg) (v : Zmm) : (s.setVreg r v).ctl = s.ctl := rfl
@[simp] theorem State.setVreg_mem (s : State) (r : VReg) (v : Zmm) : (s.setVreg r v).mem = s.mem := rfl
@[simp] theorem State.setVreg_plat (s : State) (r : VReg) (v : Zmm) : (s.setVreg r v).plat = s.plat := rfl

@[simp] theorem State.setMxcsr_zmm (s : State) (m : BitVec 32) : (s.setMxcsr m).zmm = s.zmm := rfl
@[simp] theorem State.setMxcsr_k (s : State) (m : BitVec 32) : (s.setMxcsr m).k = s.k := rfl
@[simp] theorem State.setMxcsr_mxcsr (s : State) (m : BitVec 32) : (s.setMxcsr m).mxcsr = m := rfl
@[simp] theorem State.setMxcsr_pc (s : State) (m : BitVec 32) : (s.setMxcsr m).pc = s.pc := rfl
@[simp] theorem State.setMxcsr_gpr (s : State) (m : BitVec 32) : (s.setMxcsr m).gpr = s.gpr := rfl
@[simp] theorem State.setMxcsr_rflags (s : State) (m : BitVec 32) : (s.setMxcsr m).rflags = s.rflags := rfl
@[simp] theorem State.setMxcsr_ctl (s : State) (m : BitVec 32) : (s.setMxcsr m).ctl = s.ctl := rfl
@[simp] theorem State.setMxcsr_mem (s : State) (m : BitVec 32) : (s.setMxcsr m).mem = s.mem := rfl
@[simp] theorem State.setMxcsr_plat (s : State) (m : BitVec 32) : (s.setMxcsr m).plat = s.plat := rfl

@[simp] theorem State.advance_zmm (s : State) (n : Nat) : (s.advance n).zmm = s.zmm := rfl
@[simp] theorem State.advance_k (s : State) (n : Nat) : (s.advance n).k = s.k := rfl
@[simp] theorem State.advance_mxcsr (s : State) (n : Nat) : (s.advance n).mxcsr = s.mxcsr := rfl
@[simp] theorem State.advance_pc (s : State) (n : Nat) : (s.advance n).pc = s.pc + BitVec.ofNat 64 n := rfl
@[simp] theorem State.advance_gpr (s : State) (n : Nat) : (s.advance n).gpr = s.gpr := rfl
@[simp] theorem State.advance_rflags (s : State) (n : Nat) : (s.advance n).rflags = s.rflags := rfl
@[simp] theorem State.advance_ctl (s : State) (n : Nat) : (s.advance n).ctl = s.ctl := rfl
@[simp] theorem State.advance_mem (s : State) (n : Nat) : (s.advance n).mem = s.mem := rfl
@[simp] theorem State.advance_plat (s : State) (n : Nat) : (s.advance n).plat = s.plat := rfl

@[simp] theorem State.setMem_zmm (s : State) (m : Memory) : (s.setMem m).zmm = s.zmm := rfl
@[simp] theorem State.setMem_k (s : State) (m : Memory) : (s.setMem m).k = s.k := rfl
@[simp] theorem State.setMem_mxcsr (s : State) (m : Memory) : (s.setMem m).mxcsr = s.mxcsr := rfl
@[simp] theorem State.setMem_pc (s : State) (m : Memory) : (s.setMem m).pc = s.pc := rfl
@[simp] theorem State.setMem_gpr (s : State) (m : Memory) : (s.setMem m).gpr = s.gpr := rfl
@[simp] theorem State.setMem_rflags (s : State) (m : Memory) : (s.setMem m).rflags = s.rflags := rfl
@[simp] theorem State.setMem_ctl (s : State) (m : Memory) : (s.setMem m).ctl = s.ctl := rfl
@[simp] theorem State.setMem_mem (s : State) (m : Memory) : (s.setMem m).mem = m := rfl
@[simp] theorem State.setMem_plat (s : State) (m : Memory) : (s.setMem m).plat = s.plat := rfl

@[simp] theorem State.boot_zmm (s : State) : s.boot.zmm = s.zmm := rfl
@[simp] theorem State.boot_k (s : State) : s.boot.k = s.k := rfl
@[simp] theorem State.boot_mxcsr (s : State) : s.boot.mxcsr = s.mxcsr := rfl
@[simp] theorem State.boot_pc (s : State) : s.boot.pc = s.pc := rfl
@[simp] theorem State.boot_gpr (s : State) : s.boot.gpr = s.gpr := rfl
@[simp] theorem State.boot_rflags (s : State) : s.boot.rflags = s.rflags := rfl
@[simp] theorem State.boot_mem (s : State) : s.boot.mem = s.mem := rfl
@[simp] theorem State.boot_plat (s : State) : s.boot.plat = s.plat := rfl
@[simp] theorem State.boot_mode (s : State) : s.boot.ctl.mode = .bits64 := rfl

@[simp] theorem State.setVreg_kreg (s : State) (r : VReg) (v : Zmm) (q : BitVec 3) : (s.setVreg r v).kreg q = s.kreg q := rfl
@[simp] theorem State.setVreg_greg (s : State) (r : VReg) (v : Zmm) (q : GReg) : (s.setVreg r v).greg q = s.greg q := rfl
@[simp] theorem State.setMxcsr_vreg (s : State) (m : BitVec 32) (q : VReg) : (s.setMxcsr m).vreg q = s.vreg q := rfl
@[simp] theorem State.setMxcsr_kreg (s : State) (m : BitVec 32) (q : BitVec 3) : (s.setMxcsr m).kreg q = s.kreg q := rfl
@[simp] theorem State.setMxcsr_greg (s : State) (m : BitVec 32) (q : GReg) : (s.setMxcsr m).greg q = s.greg q := rfl
@[simp] theorem State.advance_vreg (s : State) (n : Nat) (q : VReg) : (s.advance n).vreg q = s.vreg q := rfl
@[simp] theorem State.advance_kreg (s : State) (n : Nat) (q : BitVec 3) : (s.advance n).kreg q = s.kreg q := rfl
@[simp] theorem State.advance_greg (s : State) (n : Nat) (q : GReg) : (s.advance n).greg q = s.greg q := rfl
@[simp] theorem State.setMem_vreg (s : State) (m : Memory) (q : VReg) : (s.setMem m).vreg q = s.vreg q := rfl
@[simp] theorem State.setMem_kreg (s : State) (m : Memory) (q : BitVec 3) : (s.setMem m).kreg q = s.kreg q := rfl
@[simp] theorem State.setMem_greg (s : State) (m : Memory) (q : GReg) : (s.setMem m).greg q = s.greg q := rfl

@[simp] theorem State.setVreg_vreg_same (s : State) (r : VReg) (v : Zmm) : (s.setVreg r v).vreg r = v := by
  simp [State.setVreg, State.vreg]

theorem State.setVreg_vreg_other (s : State) (r q : VReg) (v : Zmm) (h : q ≠ r) : (s.setVreg r v).vreg q = s.vreg q := by
  have h' : r.toNat ≠ q.toNat := fun e => h (BitVec.eq_of_toNat_eq e.symm)
  simp [State.setVreg, State.vreg, Vector.getElem_set_ne, h']

end Sys2Proof.Machine
end

