-- ==== Sys2Proof/Laws/Ops.lean ====
section
/-! SUPPORT. For each shared operation, one lemma that says once everything it can do. -/

namespace Sys2Proof.Machine

open Sys2Proof.Safety

/-! ## Sequencing -/

@[simp] theorem andThen_next {α β : Type} (v : α) (f : α → Result β) : andThen (.next v) f = f v := rfl
@[simp] theorem andThen_fault {α β : Type} (e : Fault) (f : α → Result β) : andThen (.fault e) f = .fault e := rfl
@[simp] theorem andThen_refused {α β : Type} (q : Refusal) (f : α → Result β) :
    andThen (.refused q) f = .refused q := rfl
@[simp] theorem raise_eq {α : Type} (e : Fault) : (raise e : Result α) = .fault e := rfl
@[simp] theorem refuse_eq {α : Type} (q : Refusal) : (refuse q : Result α) = .refused q := rfl

theorem andThen_eq_next {α β : Type} {r : Result α} {f : α → Result β} {b : β} :
    andThen r f = .next b ↔ ∃ a, r = .next a ∧ f a = .next b := by
  cases r <;> simp

theorem andThen_unit_eq_next {β : Type} {r : Result Unit} {f : Unit → Result β} {b : β} :
    andThen r f = .next b ↔ r = .next () ∧ f () = .next b := by
  cases r <;> simp

theorem andThen_eq_fault {α β : Type} {r : Result α} {f : α → Result β} {e : Fault} :
    andThen r f = .fault e ↔ r = .fault e ∨ ∃ a, r = .next a ∧ f a = .fault e := by
  cases r <;> simp

theorem andThen_eq_refused {α β : Type} {r : Result α} {f : α → Result β} {q : Refusal} :
    andThen r f = .refused q ↔ r = .refused q ∨ ∃ a, r = .next a ∧ f a = .refused q := by
  cases r <;> simp

/-! ## The checks before an operand is read -/

theorem udUnless_eq_next {b : Bool} : udUnless b = .next () ↔ b = true := by
  cases b <;> simp [udUnless]

theorem modeCheck_eq_next {s : State} : modeCheck s = .next () ↔ Mode64 s := by
  unfold modeCheck Mode64
  cases s.ctl.mode <;> simp

theorem reservedOk_iff {e : Evex} : reservedOk e = true ↔ FieldsLegal e := by
  simp only [reservedOk, FieldsLegal, Bool.and_eq_true, beq_iff_eq, Bool.not_eq_true', and_assoc]
  cases e.z <;> simp

theorem immCheck_eq_next {e : Evex} {s : State} : immCheck s.plat.immHi e.imm8 = .next () ↔ ImmLegal e s := by
  unfold immCheck ImmLegal
  by_cases h : e.imm8.extractLsb' 4 4 = 0#4
  · simp [h]
  · cases s.plat.immHi <;> simp [h]

theorem tsCheck_eq_next {c : Control} : tsCheck c = .next () ↔ c.ts = false := by
  unfold tsCheck
  cases c.ts <;> simp

/-- The checks pass exactly when the row may run. -/
theorem checks_eq_next {vl : VL} {e : Evex} {s : State} : checks vl e s = .next () ↔ Runnable vl e s := by
  simp only [checks, andThen_unit_eq_next, udUnless_eq_next, modeCheck_eq_next, reservedOk_iff, immCheck_eq_next,
    tsCheck_eq_next, featureOk, enableOk, Control.xcr0Avx, Control.xcr0Avx512, Bool.and_eq_true, Bool.or_eq_true,
    beq_iff_eq, Runnable, VectorStateEnabled]
  tauto

/-! ## Memory reads -/

/-- What `MemRead` can do: the bytes, the parameter's fault, or the refusal of a device region. -/
theorem memRead_cases (s : State) (acc : Access) (seg : Segment) (a : Word) (n : Nat) :
    (∃ e, memFault s acc seg a n = some e ∧ memRead s acc seg a n = .fault e) ∨
    (memFault s acc seg a n = none ∧ (∃ x ∈ byteAddrs a n, inDevice s.plat.map x = true) ∧
      memRead s acc seg a n = .refused .deviceMemory) ∨
    (memFault s acc seg a n = none ∧ (∀ x ∈ byteAddrs a n, inDevice s.plat.map x = false) ∧
      memRead s acc seg a n = .next ((byteAddrs a n).map fun x => readByte s.mem x.toNat)) := by
  unfold memRead
  cases h : memFault s acc seg a n with
  | some e => exact .inl ⟨e, rfl, rfl⟩
  | none =>
    by_cases d : (byteAddrs a n).any (inDevice s.plat.map) = true
    · exact .inr (.inl ⟨rfl, List.any_eq_true.1 d, by simp [d]⟩)
    · exact .inr (.inr ⟨rfl, by simpa using d, by simp [d]⟩)

theorem memFault_eq_none {s : State} {acc : Access} {seg : Segment} {a : Word} {n : Nat} :
    memFault s acc seg a n = none ↔
      ∀ x ∈ byteAddrs a n, canonical s.plat.vaBits x = true ∧ permitted s.plat.map acc x = true := by
  unfold memFault
  split
  · next h =>
    obtain ⟨x, hx, hc⟩ := List.any_eq_true.1 h
    simp only [reduceCtorEq, false_iff, not_forall]
    exact ⟨x, hx, fun g => by simp [g.1] at hc⟩
  · next h =>
    split
    · next h2 =>
      obtain ⟨x, hx, hc⟩ := List.any_eq_true.1 h2
      simp only [reduceCtorEq, false_iff, not_forall]
      exact ⟨x, hx, fun g => by simp [g.2] at hc⟩
    · next h2 =>
      simp only [List.any_eq_true, not_exists, not_and, Bool.not_eq_true', Bool.not_eq_false] at h h2
      exact ⟨fun _ x hx => ⟨h x hx, h2 x hx⟩, fun _ => rfl⟩

/-- The bytes of an access, spelt with their offsets. -/
theorem byteAddrs_forall {a : Word} {n : Nat} {P : Word → Prop} :
    (∀ x ∈ byteAddrs a n, P x) ↔ ∀ j, j < n → P (a + BitVec.ofNat 64 j) := by
  simp [byteAddrs]

/-- A little-endian value is the sum of its bytes times the powers of 256. -/
theorem leNat_range' (g : Nat → Byte) (n k : Nat) :
    leNat ((List.range' k n).map g) * 256 ^ k = ((List.range' k n).map fun j => (g j).toNat * 256 ^ j).sum := by
  induction n generalizing k with
  | zero => simp [leNat]
  | succ n ih =>
    simp only [List.range'_succ, List.map_cons, List.sum_cons, leNat, ← ih (k + 1)]
    ring

/-- The value of the bytes read from `a` is the sum that 20_memory.md R50 gives. -/
theorem leNat_byteAddrs (a : Word) (n : Nat) (f : Word → Byte) :
    leNat ((byteAddrs a n).map f) =
      ((List.range n).map fun j => (f (a + BitVec.ofNat 64 j)).toNat * 256 ^ j).sum := by
  have h := leNat_range' (fun j => f (a + BitVec.ofNat 64 j)) n 0
  rw [pow_zero, mul_one] at h
  rw [byteAddrs, List.map_map, List.range_eq_range']
  exact h

/-! ## Reading the source -/

/-- What collecting the reads can do, when it answers values: no read stopped, and the values are theirs. -/
theorem collectReads_eq_next {seed : Nat} {rs : List (Option (Result Word))} {ts : List (Option Word)} :
    collectReads seed rs = .next ts ↔
      (∀ r ∈ rs, refusalOf r = none ∧ faultOf r = none) ∧ ts = rs.map valueOf := by
  unfold collectReads
  cases h : rs.findSome? refusalOf with
  | some q =>
    obtain ⟨r, hr, hq⟩ := List.exists_of_findSome?_eq_some h
    simp only [refuse_eq, reduceCtorEq, false_iff, not_and]
    exact fun g => absurd (g r hr).1 (by simp [hq])
  | none =>
    cases hf : rs.filterMap faultOf with
    | cons e es =>
      simp only [raise_eq, reduceCtorEq, false_iff, not_and]
      intro g
      obtain ⟨r, hr, he⟩ := List.mem_filterMap.1 (hf ▸ List.mem_cons_self : e ∈ rs.filterMap faultOf)
      exact absurd (g r hr).2 (by simp [he])
    | nil =>
      have hn := List.findSome?_eq_none_iff.1 h
      have hff : ∀ r ∈ rs, faultOf r = none := List.filterMap_eq_nil_iff.1 hf
      simp only [Host.Outcome.next.injEq]
      exact ⟨fun e => ⟨fun r hr => ⟨hn r hr, hff r hr⟩, e.symm⟩, fun e => e.2.symm⟩

/-- The reported fault is the fault of some active element. -/
theorem drawFault_mem (seed : Nat) (e : Fault) (es : List Fault) : drawFault seed e es ∈ e :: es := by
  unfold drawFault
  split
  · exact List.mem_cons_self
  · have h : Config.faultDraw seed (es.length + 1) % (es.length + 1) < (e :: es).length :=
      Nat.mod_lt _ (Nat.succ_pos _)
    rw [List.getD_eq_getElem _ _ h]
    exact List.getElem_mem h

/-- When the source can be read, what each lane got. -/
theorem readSource_eq_next {s : State} {src : Source} {vl : VL} {aaa : BitVec 3} {ts : List (Option Word)} :
    readSource s src vl aaa = .next ts ↔
      (∀ i, i < vlElements vl → active s aaa i = true → ∃ x, sourceElement s src i = .next x) ∧
        ts = (elementReads s src vl aaa).map valueOf := by
  unfold readSource
  rw [collectReads_eq_next]
  refine and_congr_left fun _ => ?_
  simp only [elementReads, List.mem_map, List.mem_range, forall_exists_index, and_imp, forall_apply_eq_imp_iff₂]
  refine forall₂_congr fun i _ => ?_
  cases active s aaa i <;> cases sourceElement s src i <;> simp [refusalOf, faultOf]

/-! ## Vector registers and lanes -/

@[simp] theorem vlElements_v128 : vlElements .v128 = 2 := rfl
@[simp] theorem vlElements_v256 : vlElements .v256 = 4 := rfl
@[simp] theorem vlElements_v512 : vlElements .v512 = 8 := rfl

/-- Bit `n` of packed elements is bit `n % 64` of element `n / 64`. -/
theorem getLsbD_packDoubles (xs : List Word) (n : Nat) (h : n < 512) :
    (packDoubles xs).getLsbD n = (xs.getD (n / 64) 0#64).getLsbD (n % 64) := by
  induction xs generalizing n with
  | nil => simp [packDoubles]
  | cons x xs ih =>
    simp only [packDoubles, BitVec.getLsbD_or, BitVec.getLsbD_shiftLeft, BitVec.getLsbD_setWidth, h, decide_true,
      Bool.true_and]
    by_cases hn : n < 64
    · simp [hn, Nat.div_eq_of_lt hn, Nat.mod_eq_of_lt hn]
    · have h1 : n / 64 = (n - 64) / 64 + 1 := by omega
      have h2 : (n - 64) % 64 = n % 64 := by omega
      rw [ih (n - 64) (by omega), h1, h2, BitVec.getLsbD_of_ge x n (by omega)]
      simp [hn]

/-- The elements of packed elements. -/
theorem double_packDoubles (xs : List Word) (i : Nat) (h : i < 8) : double (packDoubles xs) i = xs.getD i 0#64 := by
  apply BitVec.eq_of_getLsbD_eq
  intro j hj
  simp only [double, BitVec.getLsbD_extractLsb', hj, decide_true, Bool.true_and]
  rw [getLsbD_packDoubles _ _ (by omega)]
  congr 2
  · omega
  · omega

/-- What the lanes hold: lane `i` is computed from what reading element `i` gave. -/
theorem lanes_getD (s : State) (e : Evex) (vl : VL) (ts : List (Option Word)) (i : Nat) (h : i < vlElements vl) :
    ((lanes s e vl ts).map (·.value)).getD i 0#64 = (lane s e i (ts.getD i none)).value := by
  simp [lanes, List.getD, h]

/-! ## Execution -/

/-- Everything a completed `execute` has done. -/
theorem execute_eq_next {vl : VL} {sae : Bool} {src : Source} {e : Evex} {len : Nat} {s t : State} :
    execute vl sae src e len s = .next t ↔
      ∃ ts m, readSource s src vl e.aaa = .next ts ∧
        commitFlags sae s.ctl.osxmmexcpt s.mxcsr ((lanes s e vl ts).any (·.ie)) ((lanes s e vl ts).any (·.de)) = .next m ∧
        t = ((s.setVreg e.dest (packDoubles ((lanes s e vl ts).map (·.value)))).setMxcsr m).advance len := by
  simp only [execute, andThen_eq_next, Host.Outcome.next.injEq, eq_comm (b := t)]
  constructor
  · rintro ⟨ts, h1, m, h2, h3⟩
    exact ⟨ts, m, h1, h2, h3⟩
  · rintro ⟨ts, m, h1, h2, h3⟩
    exact ⟨ts, h1, m, h2, h3⟩

/-- A completed row passed its checks and executed. -/
theorem vgetmantpd_eq_next {vl : VL} {sae : Bool} {src : Source} {e : Evex} {len : Nat} {s t : State} :
    vgetmantpd vl sae src e len s = .next t ↔ Runnable vl e s ∧ execute vl sae src e len s = .next t := by
  simp only [vgetmantpd, andThen_eq_next]
  exact ⟨fun ⟨_, h, g⟩ => ⟨checks_eq_next.1 h, g⟩, fun ⟨h, g⟩ => ⟨(), checks_eq_next.2 h, g⟩⟩

/-- What committing the flags can do, when it answers a value of MXCSR. -/
theorem commitFlags_eq_next {sae x : Bool} {m m' : BitVec 32} {ie de : Bool} :
    commitFlags sae x m ie de = .next m' ↔
      (sae = true ∧ m' = m) ∨ (sae = false ∧ unmasked m ie de = false ∧ m' = setFlags m ie de) := by
  unfold commitFlags
  cases sae
  · cases unmasked m ie de <;> simp [eq_comm (a := m')]
  · simp [eq_comm (a := m')]

/-- Every row that is not reserved is the shared operation on its own length, sae and source. -/
theorem exec_eq_vgetmantpd {i : Instr} {s : State} {v : RowView} (h : rowView s i = some v) :
    exec i s = vgetmantpd v.vl v.sae v.src i.evex (instrLength i) s := by
  cases i <;> simp only [rowView, Option.some.injEq, reduceCtorEq] at h <;> subst h <;> rfl

/-- A row without a view is reserved. -/
theorem exec_of_rowView_none {i : Instr} {s : State} (h : rowView s i = none) : exec i s = reservedLength s := by
  cases i <;> simp only [rowView, reduceCtorEq] at h <;> rfl

end Sys2Proof.Machine
end

