-- ==== Sys2Proof/Laws/PerInstr.lean ====
section
/-! SUPPORT. Laws proved once per constructor of Instr. -/

namespace Sys2Proof.Laws.Encoding

/-- An instruction's encoding has the instruction's length, which is 7, 8, 9, 11 or 12 bytes (30_encoding.md R71). -/
def Statement (i : Instr) : Prop :=
  (encode i).length = instrLength i ∧
    (instrLength i = 7 ∨ instrLength i = 8 ∨ instrLength i = 9 ∨ instrLength i = 11 ∨ instrLength i = 12)

theorem encodeWith_length (e : Evex) (ll : BitVec 2) (b : Bool) (f : RmFields) :
    (encodeWith e ll b f).length = 7 + f.tail.length := by
  simp [encodeWith]
  omega

theorem rmOf00_length (a : Addr00) : (rmOf00 a).tail.length = addr00Size a := by
  rcases a with (_ | _) | _ | _ <;> rfl

theorem rmOf01_length (a : Addr01) : (rmOf01 a).tail.length = addr01Size a := by
  rcases a with ⟨_ | _, _⟩ <;> rfl

theorem rmOf10_length (a : Addr10) : (rmOf10 a).tail.length = addr10Size a := by
  rcases a with ⟨_ | _, _⟩ <;> rfl

theorem addr00Size_cases (a : Addr00) : addr00Size a = 0 ∨ addr00Size a = 1 ∨ addr00Size a = 4 ∨ addr00Size a = 5 := by
  rcases a with (_ | _) | _ | _ <;> simp [addr00Size, baseFormSize]

theorem addr01Size_cases (a : Addr01) : addr01Size a = 1 ∨ addr01Size a = 2 := by
  rcases a with ⟨_ | _, _⟩ <;> simp [addr01Size, baseFormSize]

theorem addr10Size_cases (a : Addr10) : addr10Size a = 4 ∨ addr10Size a = 5 := by
  rcases a with ⟨_ | _, _⟩ <;> simp [addr10Size, baseFormSize]

theorem ofReg {i : Instr} {e : Evex} {ll : BitVec 2} {b : Bool} {r : VReg}
    (h : encode i = encodeWith e ll b (rmOfReg r)) (hl : instrLength i = lenReg) : Statement i := by
  rw [Statement, h, hl, encodeWith_length]
  exact ⟨rfl, .inl rfl⟩

theorem of00 {i : Instr} {e : Evex} {ll : BitVec 2} {b : Bool} {a : Addr00}
    (h : encode i = encodeWith e ll b (rmOf00 a)) (hl : instrLength i = len00 a) : Statement i := by
  have := addr00Size_cases a
  rw [Statement, h, hl, encodeWith_length, rmOf00_length, len00]
  omega

theorem of01 {i : Instr} {e : Evex} {ll : BitVec 2} {b : Bool} {a : Addr01}
    (h : encode i = encodeWith e ll b (rmOf01 a)) (hl : instrLength i = len01 a) : Statement i := by
  have := addr01Size_cases a
  rw [Statement, h, hl, encodeWith_length, rmOf01_length, len01]
  omega

theorem of10 {i : Instr} {e : Evex} {ll : BitVec 2} {b : Bool} {a : Addr10}
    (h : encode i = encodeWith e ll b (rmOf10 a)) (hl : instrLength i = len10 a) : Statement i := by
  have := addr10Size_cases a
  rw [Statement, h, hl, encodeWith_length, rmOf10_length, len10]
  omega

theorem xmmReg (e : Evex) (r : VReg) : Statement (.xmmReg e r) := ofReg rfl rfl
theorem xmmMem00 (e : Evex) (a : Addr00) : Statement (.xmmMem00 e a) := of00 rfl rfl
theorem xmmMem01 (e : Evex) (a : Addr01) : Statement (.xmmMem01 e a) := of01 rfl rfl
theorem xmmMem10 (e : Evex) (a : Addr10) : Statement (.xmmMem10 e a) := of10 rfl rfl
theorem xmmBcst00 (e : Evex) (a : Addr00) : Statement (.xmmBcst00 e a) := of00 rfl rfl
theorem xmmBcst01 (e : Evex) (a : Addr01) : Statement (.xmmBcst01 e a) := of01 rfl rfl
theorem xmmBcst10 (e : Evex) (a : Addr10) : Statement (.xmmBcst10 e a) := of10 rfl rfl
theorem ymmReg (e : Evex) (r : VReg) : Statement (.ymmReg e r) := ofReg rfl rfl
theorem ymmMem00 (e : Evex) (a : Addr00) : Statement (.ymmMem00 e a) := of00 rfl rfl
theorem ymmMem01 (e : Evex) (a : Addr01) : Statement (.ymmMem01 e a) := of01 rfl rfl
theorem ymmMem10 (e : Evex) (a : Addr10) : Statement (.ymmMem10 e a) := of10 rfl rfl
theorem ymmBcst00 (e : Evex) (a : Addr00) : Statement (.ymmBcst00 e a) := of00 rfl rfl
theorem ymmBcst01 (e : Evex) (a : Addr01) : Statement (.ymmBcst01 e a) := of01 rfl rfl
theorem ymmBcst10 (e : Evex) (a : Addr10) : Statement (.ymmBcst10 e a) := of10 rfl rfl
theorem zmmReg (e : Evex) (r : VReg) : Statement (.zmmReg e r) := ofReg rfl rfl
theorem zmmMem00 (e : Evex) (a : Addr00) : Statement (.zmmMem00 e a) := of00 rfl rfl
theorem zmmMem01 (e : Evex) (a : Addr01) : Statement (.zmmMem01 e a) := of01 rfl rfl
theorem zmmMem10 (e : Evex) (a : Addr10) : Statement (.zmmMem10 e a) := of10 rfl rfl
theorem zmmBcst00 (e : Evex) (a : Addr00) : Statement (.zmmBcst00 e a) := of00 rfl rfl
theorem zmmBcst01 (e : Evex) (a : Addr01) : Statement (.zmmBcst01 e a) := of01 rfl rfl
theorem zmmBcst10 (e : Evex) (a : Addr10) : Statement (.zmmBcst10 e a) := of10 rfl rfl
theorem zmmSae (e : Evex) (r : VReg) : Statement (.zmmSae e r) := ofReg rfl rfl
theorem udReg (e : Evex) (r : VReg) : Statement (.udReg e r) := ofReg rfl rfl
theorem udMem00 (e : Evex) (b : Bool) (a : Addr00) : Statement (.udMem00 e b a) := of00 rfl rfl
theorem udMem01 (e : Evex) (b : Bool) (a : Addr01) : Statement (.udMem01 e b a) := of01 rfl rfl
theorem udMem10 (e : Evex) (b : Bool) (a : Addr10) : Statement (.udMem10 e b a) := of10 rfl rfl

end Sys2Proof.Laws.Encoding
end

