-- ==== Sys2Proof/Tests/Slice0.lean ====
section
/-! SUPPORT. Tests: well-formedness, words written out from the encodings of 95_test_vectors.md and 30_encoding.md, the
element function, single steps, and for each statement with hypotheses a concrete state and operands that meet them. -/

namespace Sys2Proof.Tests

open Sys2Proof Sys2Proof.Machine Sys2Proof.Safety

/-! ## Helpers -/

/-- The low `n` bytes of a number, most significant first: instruction bytes as the spec prints them. -/
def bytes : Nat → Nat → List Byte
  | 0,     _ => []
  | n + 1, w => BitVec.ofNat 8 (w / 256 ^ n) :: bytes n w

/-- A launch state: what `State.boot` leaves, with pc = 1000H, the instruction bytes there, and chosen registers:
zmm1 and zmm2 as in 95_test_vectors.md section 4, RSI = 5000H, k1 as given, and 9.0 in the eight bytes at 5000H. -/
def launch (k1 : Nat) (code : List Byte) : State :=
  { State.reset.boot with
      pc := 0x1000#64
      zmm := (State.reset.zmm.set 1 (packDoubles [0x1111111111111110#64, 0x1111111111111111#64])).set 2
        (packDoubles [0x4008000000000000#64, 0xC028000000000000#64])
      k := State.reset.k.set 1 (BitVec.ofNat 64 k1)
      gpr := State.reset.gpr.set 6 0x5000#64
      mem := placeBytes (placeBytes [] 0x5000#64 (bytes 8 0x2240)) 0x1000#64 code }

/-- `launch` with another MXCSR. -/
def launchM (m : BitVec 32) (k1 : Nat) (code : List Byte) : State := (launch k1 code).setMxcsr m

/-- `launch` with another source register zmm2 (its element 0). -/
def launchZ (x : Word) (k1 : Nat) (code : List Byte) : State := (launch k1 code).setVreg 2#5 (packDoubles [x])

/-- `launch` with another memory map. -/
def launchMap (map : List Region) (k1 : Nat) (code : List Byte) : State :=
  { launch k1 code with plat := { (launch k1 code).plat with map := map } }

/-- Only the code and the eight bytes at 5000H are mapped. -/
def smallMap : List Region :=
  [{ base := 0x1000, size := 0x100, kind := .ordinary, read := true, fetch := true },
   { base := 0x5000, size := 8, kind := .ordinary, read := true, fetch := false }]

/-- The code is mapped, and a device stands at 5000H. -/
def deviceMap : List Region :=
  [{ base := 0x1000, size := 0x100, kind := .ordinary, read := true, fetch := true },
   { base := 0x5000, size := 0x100, kind := .device, read := true, fetch := false }]

/-- Some fields of the next state. -/
def nextOf {α β : Type} (o : Result α) (f : α → β) : Option β :=
  match o with
  | .next t => some (f t)
  | _       => none

/-- The stop of an outcome. -/
def stopOf {α : Type} (o : Result α) : Option (Fault ⊕ Refusal) :=
  match o with
  | .next _    => none
  | .fault e   => some (.inl e)
  | .refused q => some (.inr q)

/-- The first `n` elements of a register, with pc and MXCSR. -/
def view (r : VReg) (n : Nat) (t : State) : List Word × Word × BitVec 32 :=
  ((List.range n).map (double (t.vreg r)), t.pc, t.mxcsr)

/-- EVEX fields with legal reserved bits. -/
def fields (dest : VReg) (aaa : BitVec 3) (z : Bool) (imm8 : Byte) : Evex := ⟨dest, aaa, z, 15#4, true, imm8⟩

/-! ## Well-formedness: a term that has no encoding is refused by each check -/

theorem test_wf_index : (Instr.zmmMem10 (fields 1 0 false 0) ⟨.sib 3 (some ⟨4, 0⟩), 0⟩).wf = false := by decide
theorem test_wf_index_noBase : (Instr.xmmMem00 (fields 1 0 false 0) (.noBase (some ⟨4, 1⟩) 0)).wf = false := by decide
theorem test_wf_base00_sib : (Instr.zmmMem00 (fields 1 0 false 0) (.plain (.reg 12))).wf = false := by decide
theorem test_wf_base00_rip : (Instr.zmmMem00 (fields 1 0 false 0) (.plain (.reg 13))).wf = false := by decide
theorem test_wf_sibBase00 : (Instr.zmmMem00 (fields 1 0 false 0) (.plain (.sib 5 none))).wf = false := by decide
theorem test_wf_sibIndex00 : (Instr.ymmBcst00 (fields 1 0 false 0) (.plain (.sib 1 (some ⟨4, 0⟩)))).wf = false := by
  decide
theorem test_wf_base01 : (Instr.ymmMem01 (fields 1 0 false 0) ⟨.reg 4, 0⟩).wf = false := by decide
theorem test_wf_base10 : (Instr.udMem10 (fields 1 0 false 0) false ⟨.reg 12, 0⟩).wf = false := by decide
theorem test_wf_r13_disp8 : (Instr.xmmMem01 (fields 1 0 false 0) ⟨.reg 13, 0⟩).wf = true := by decide

/-! ## Decoding: words written out, one for each row (95_test_vectors.md section 1, 30_encoding.md R70 to R86) -/

theorem test_decode_xmmReg : decode (bytes 7 0x62F3FD0926CA04) = .ok (.xmmReg (fields 1 1 false 4) 2) [] := by decide
theorem test_decode_xmmMem00 : decode (bytes 8 0x62F3FD08260C2400) =
    .ok (.xmmMem00 (fields 1 0 false 0) (.plain (.sib 4 none))) [] := by decide
theorem test_decode_xmmMem01 : decode (bytes 8 0x62D3FD08264D0000) =
    .ok (.xmmMem01 (fields 1 0 false 0) ⟨.reg 13, 0⟩) [] := by decide
theorem test_decode_xmmMem10 : decode (bytes 11 0x62F3FD08268EF0FFFFFF00) =
    .ok (.xmmMem10 (fields 1 0 false 0) ⟨.reg 6, 0xFFFFFFF0⟩) [] := by decide
theorem test_decode_xmmBcst00 : decode (bytes 7 0x62F3FD18261800) =
    .ok (.xmmBcst00 (fields 3 0 false 0) (.plain (.reg 0))) [] := by decide
theorem test_decode_xmmBcst01 : decode (bytes 9 0x62F3FD1A265CCFFE09) =
    .ok (.xmmBcst01 (fields 3 2 false 9) ⟨.sib 7 (some ⟨1, 3⟩), 0xFE⟩) [] := by decide
theorem test_decode_xmmBcst10 : decode (bytes 12 0x62F3FD18268CCF0100000000) =
    .ok (.xmmBcst10 (fields 1 0 false 0) ⟨.sib 7 (some ⟨1, 3⟩), 1⟩) [] := by decide
theorem test_decode_ymmReg : decode (bytes 7 0x62F3FDA926CA02) = .ok (.ymmReg (fields 1 1 true 2) 2) [] := by decide
theorem test_decode_ymmMem00 : decode (bytes 11 0x62F3FD28260D1000000000) =
    .ok (.ymmMem00 (fields 1 0 false 0) (.rip 0x10)) [] := by decide
theorem test_decode_ymmMem01 : decode (bytes 8 0x6273FD2F264B0201) =
    .ok (.ymmMem01 (fields 9 7 false 1) ⟨.reg 3, 2⟩) [] := by decide
theorem test_decode_ymmMem10 : decode (bytes 11 0x6273FD28268B4100000002) =
    .ok (.ymmMem10 (fields 9 0 false 2) ⟨.reg 3, 0x41⟩) [] := by decide
theorem test_decode_ymmBcst00 : decode (bytes 12 0x62F3FD38260C257856341200) =
    .ok (.ymmBcst00 (fields 1 0 false 0) (.noBase none 0x12345678)) [] := by decide
theorem test_decode_ymmBcst01 : decode (bytes 9 0x6223FD38264C8B0902) =
    .ok (.ymmBcst01 (fields 25 0 false 2) ⟨.sib 3 (some ⟨9, 2⟩), 9⟩) [] := by decide
theorem test_decode_ymmBcst10 : decode (bytes 11 0x62F3FD38268E0800000000) =
    .ok (.ymmBcst10 (fields 1 0 false 0) ⟨.reg 6, 8⟩) [] := by decide
theorem test_decode_zmmReg : decode (bytes 7 0x62F3FD4826CA00) = .ok (.zmmReg (fields 1 0 false 0) 2) [] := by decide
theorem test_decode_zmmMem00 : decode (bytes 7 0x62F3FD48260600) =
    .ok (.zmmMem00 (fields 0 0 false 0) (.plain (.reg 6))) [] := by decide
theorem test_decode_zmmMem01 : decode (bytes 8 0x62F3FD48264EFF00) =
    .ok (.zmmMem01 (fields 1 0 false 0) ⟨.reg 6, 0xFF⟩) [] := by decide
theorem test_decode_zmmMem10 : decode (bytes 11 0x6273FD48268B4100000002) =
    .ok (.zmmMem10 (fields 9 0 false 2) ⟨.reg 3, 0x41⟩) [] := by decide
theorem test_decode_zmmBcst00 : decode (bytes 7 0x62F3FDDA26180B) =
    .ok (.zmmBcst00 (fields 3 2 true 11) (.plain (.reg 0))) [] := by decide
theorem test_decode_zmmBcst01 : decode (bytes 8 0x62F3FD59264E0100) =
    .ok (.zmmBcst01 (fields 1 1 false 0) ⟨.reg 6, 1⟩) [] := by decide
theorem test_decode_zmmBcst10 : decode (bytes 11 0x62F3FD58268E0800000000) =
    .ok (.zmmBcst10 (fields 1 0 false 0) ⟨.reg 6, 8⟩) [] := by decide
theorem test_decode_zmmSae : decode (bytes 7 0x6283FD1826CE03) = .ok (.zmmSae (fields 17 0 false 3) 30) [] := by decide
theorem test_decode_zmmSae_ll : decode (bytes 7 0x62F3FD7826CA00) = .ok (.zmmSae (fields 1 0 false 0) 2) [] := by decide
theorem test_decode_udReg : decode (bytes 7 0x62F3FD6826CA00) = .ok (.udReg (fields 1 0 false 0) 2) [] := by decide
theorem test_decode_udMem00 : decode (bytes 7 0x62F3FD78260E00) =
    .ok (.udMem00 (fields 1 0 false 0) true (.plain (.reg 6))) [] := by decide
theorem test_decode_udMem01 : decode (bytes 8 0x62F3FD68264E0100) =
    .ok (.udMem01 (fields 1 0 false 0) false ⟨.reg 6, 1⟩) [] := by decide
theorem test_decode_udMem10 : decode (bytes 11 0x62F3FD68268E0800000000) =
    .ok (.udMem10 (fields 1 0 false 0) false ⟨.reg 6, 8⟩) [] := by decide

/-- Reserved bits do not change the row that decoding finds: vvvv = 0000, V' = 0, z = 1 without a mask, imm8 = 10H. -/
theorem test_decode_reserved_kept :
    decode (bytes 7 0x62F385C026CA10) = .ok (.zmmReg ⟨1, 0, true, 0, false, 0x10⟩ 2) [] := by decide

/-- F11 to F18 of 95_test_vectors.md section 4.3: not this instruction. -/
theorem test_decode_rejects :
    decode (bytes 7 0x62F37D4826CA00) = .rejected .otherForm ∧ decode (bytes 7 0x62F3FC4826CA00) = .rejected .otherForm ∧
    decode (bytes 7 0x62F2FD4826CA00) = .rejected .otherMap ∧ decode (bytes 7 0x62F3FD4827CA00) = .rejected .otherOpcode ∧
    decode (bytes 7 0x62F7FD4826CA00) = .rejected .otherMap ∧ decode (bytes 7 0x62F3F94826CA00) = .rejected .otherForm ∧
    decode (bytes 8 0x6662F3FD4826CA00) = .rejected .notEvex ∧ decode (bytes 3 0xC5F877) = .rejected .notEvex := by decide

/-- The encoder writes the words of the spec (E5, E9, E16, E21). -/
theorem test_encode :
    encode (.ymmMem01 (fields 9 7 false 1) ⟨.reg 3, 2⟩) = bytes 8 0x6273FD2F264B0201 ∧
    encode (.ymmBcst01 (fields 25 0 false 2) ⟨.sib 3 (some ⟨9, 2⟩), 9⟩) = bytes 9 0x6223FD38264C8B0902 ∧
    encode (.xmmMem00 (fields 1 0 false 0) (.noBase none 0x12345678)) = bytes 12 0x62F3FD08260C257856341200 ∧
    encode (.xmmMem00 (fields 1 0 false 0) (.rip 0xFFFFFFF0)) = bytes 11 0x62F3FD08260DF0FFFFFF00 := by decide

/-- The host's numbering and the table's packing of one word (log 6). -/
theorem test_tableWord :
    decodeTableWord 56 0x00CA2648FDF362 = some (.zmmReg (fields 1 0 false 0) 2) ∧
    decodeTableWord 48 0x62F3FD4826CA = some (.zmmReg (fields 1 0 false 0) 2) := by decide

/-! ## The element function (95_test_vectors.md sections 3.1 and 3.2) -/

/-- V3, V15: interval 00 to 11 of 3.0, and the parity of a negative exponent. -/
theorem test_getmant_normal :
    [0#2, 1#2, 2#2, 3#2].map (fun iv => (getmant 0x4008000000000000#64 0 iv false).value) =
      [0x3FF8000000000000#64, 0x3FE8000000000000#64, 0x3FE8000000000000#64, 0x3FE8000000000000#64] ∧
    getmant 0x3FB999999999999A#64 0 1 false = ⟨0x3FF999999999999A#64, false, false⟩ := by decide

/-- V21 to V24: denormals. -/
theorem test_getmant_denormal :
    getmant 0x000FFFFFFFFFFFFF#64 0 1 false = ⟨0x3FEFFFFFFFFFFFFE#64, false, true⟩ ∧
    getmant 1#64 0 1 false = ⟨0x3FF0000000000000#64, false, true⟩ ∧
    getmant 2#64 0 1 false = ⟨0x3FE0000000000000#64, false, true⟩ ∧
    getmant 3#64 0 3 false = ⟨0x3FE8000000000000#64, false, true⟩ := by decide

/-- V31, V33, V35, V37, V43, V45: zeros, infinities, NaNs, the sign control and DAZ. -/
theorem test_getmant_special :
    getmant 0x8000000000000000#64 2 0 false = ⟨0xBFF0000000000000#64, false, false⟩ ∧
    getmant 0xFFF0000000000000#64 2 0 false = ⟨0xFFF8000000000000#64, true, false⟩ ∧
    getmant 0xFFF8000000000123#64 1 0 false = ⟨0xFFF8000000000123#64, false, false⟩ ∧
    getmant 0xFFF4000000000000#64 3 0 false = ⟨0xFFFC000000000000#64, true, false⟩ ∧
    getmant 0x8000000000000003#64 2 0 false = ⟨0xFFF8000000000000#64, true, false⟩ ∧
    getmant 0x8000000000000003#64 3 0 true = ⟨0x3FF0000000000000#64, false, false⟩ := by decide

/-! ## Single steps (95_test_vectors.md section 4) -/

/-- I1: upper bits are cleared. -/
theorem test_step_xmm : nextOf (step (launch 0 (bytes 7 0x62F3FD0826CA00))) (view 1 3) =
    some ([0x3FF8000000000000#64, 0xBFF8000000000000#64, 0#64], 0x1007#64, 0x1F80#32) := by decide +kernel

/-- I2: merging keeps masked-off elements, bits above VL are cleared all the same. -/
theorem test_step_xmm_merge : nextOf (step (launch 0xFFFFFFFFFFFFFFFC (bytes 7 0x62F3FD0926CA00))) (view 1 3) =
    some ([0x1111111111111110#64, 0x1111111111111111#64, 0#64], 0x1007#64, 0x1F80#32) := by decide +kernel

/-- I6 in the ymm length: zeroing. -/
theorem test_step_ymm_zero : nextOf (step (launch 1 (bytes 7 0x62F3FDA926CA00))) (view 1 3) =
    some ([0x3FF8000000000000#64, 0#64, 0#64], 0x1007#64, 0x1F80#32) := by decide +kernel

/-- I8: source and destination the same. -/
theorem test_step_ymm_same : nextOf (step (launch 0 (bytes 7 0x62F3FD2826D201))) (view 2 3) =
    some ([0x3FE8000000000000#64, 0xBFE8000000000000#64, 0x3FF0000000000000#64], 0x1007#64, 0x1F80#32) := by
  decide +kernel

/-- X1: a signaling NaN sets IE. -/
theorem test_step_zmm_invalid :
    nextOf (step (launchZ 0x7FF0000000000001#64 0 (bytes 7 0x62F3FD4826CA00))) (view 1 1) =
      some ([0x7FF8000000000001#64], 0x1007#64, 0x1F81#32) := by decide +kernel

/-- X2: with sae no flag. -/
theorem test_step_sae : nextOf (step (launchZ 0x7FF0000000000001#64 0 (bytes 7 0x62F3FD1826CA00))) (view 1 1) =
    some ([0x7FF8000000000001#64], 0x1007#64, 0x1F80#32) := by decide +kernel

/-- X7 with OSXMMEXCPT false: an unmasked Denormal is #UD. -/
theorem test_step_unmasked :
    stopOf (step ((launchZ 3#64 0 (bytes 7 0x62F3FD4826CA00)).setMxcsr 0x1E80#32)) = some (.inl .invalidOpcode) := by
  decide +kernel

/-- M5: inactive elements are not read. -/
theorem test_step_mem_masked : nextOf (step (launchMap smallMap 1 (bytes 7 0x62F3FD49260E00))) (view 1 2) =
    some ([0x3FF2000000000000#64, 0x1111111111111111#64], 0x1007#64, 0x1F80#32) := by decide +kernel

/-- M6: an active unmapped element page-faults. -/
theorem test_step_mem_fault :
    stopOf (step (launchMap smallMap 3 (bytes 7 0x62F3FD49260E00))) = some (.inl .pageFault) := by decide

/-- Broadcast: 9.0 to every element, with an 8-bit displacement of FF (-8) from 5008H. -/
theorem test_step_bcst :
    nextOf (step { launchMap smallMap 0 (bytes 8 0x62F3FD38264EFF02) with gpr := State.reset.gpr.set 6 0x5008#64 })
      (view 1 5) =
      some (List.replicate 4 0x3FE2000000000000#64 ++ [0#64], 0x1008#64, 0x1F80#32) := by decide +kernel

/-- M3: a non-canonical address through base rsp is #SS(0). -/
theorem test_step_stack_fault :
    stopOf (step { launch 0 (bytes 8 0x62F3FD08260C2400) with gpr := State.reset.gpr.set 4 0x0000800000000000#64 }) =
      some (.inl .stackSegment) := by decide +kernel

/-- A device region is refused. -/
theorem test_step_device :
    stopOf (step (launchMap deviceMap 1 (bytes 7 0x62F3FD49260E00))) = some (.inr .deviceMemory) := by decide

/-- F3, F4, F8, F10: reserved V', reserved z, imm8[7:4], and that #UD comes before the refusal. -/
theorem test_step_reserved :
    stopOf (step (launch 0 (bytes 7 0x62F3FD4026CA00))) = some (.inl .invalidOpcode) ∧
    stopOf (step (launch 0 (bytes 7 0x62F3FDC826CA00))) = some (.inl .invalidOpcode) ∧
    stopOf (step (launch 0 (bytes 7 0x62F3FD4826CA10))) = some (.inr .immHighBits) ∧
    stopOf (step (launch 0 (bytes 7 0x62F3F54826CA10))) = some (.inl .invalidOpcode) := by decide

/-- The first instruction after reset, placed by the host's helper. -/
theorem test_withFetchWord :
    nextOf (step (State.reset.withFetchWord 56 0x00CA2648FDF362)) (view 1 1) =
      some ([0x3FF0000000000000#64], 0xFFFFFFF7#64, 0x1F80#32) ∧
    stopOf (step (State.reset.withFetchWord 56 0x00CA2668FDF362)) = some (.inl .invalidOpcode) := by decide +kernel

/-! ## Witnesses: concrete states and operands that meet the hypotheses of each statement -/

/-- Legal fields, zmm1, k1, merging. -/
def e1 : Evex := fields 1 1 false 0

/-- Legal fields, zmm1, no writemask. -/
def e0 : Evex := fields 1 0 false 0

/-- A launch state with lanes 0 and 1 selected by k1. -/
def s1 : State := launch 3 (bytes 7 0x62F3FD4926CA00)

/-- `s1` in another mode. -/
def inMode (m : Mode) : State := { s1 with ctl := { s1.ctl with mode := m } }

/-- `s1` with other CR0, CR4, XCR0. -/
def withCtl (cr0 cr4 xcr0 : Word) : State := { s1 with ctl := { s1.ctl with cr0 := cr0, cr4 := cr4, xcr0 := xcr0 } }

/-- `s1` with another policy for imm8[7:4]. -/
def withPolicy (p : ImmHiPolicy) : State := { s1 with plat := { s1.plat with immHi := p } }

/-- `s1` without the CPUID features. -/
def withFeatures (f vl : Bool) : State := { s1 with ctl := { s1.ctl with avx512f := f, avx512vl := vl } }

theorem witness_DecodeOfEncode : (Instr.zmmMem10 e1 ⟨.sib 3 (some ⟨9, 2⟩), 9⟩).wf = true := by decide

theorem witness_DecodedIsWellFormed :
    decode (bytes 9 0x62F3FD4826CA00AABB) = .ok (.zmmReg e0 2) (bytes 2 0xAABB) := by decide

theorem witness_TwelveBytesDecide : 12 ≤ (bytes 12 0x62F3FD08260C257856341200).length := by decide

/-- One word for each entry of the length table, with its length: 7, 8 and 12 with SIB, 11, 7, 9, 8, 12, 11. -/
theorem witness_LengthFromModRM :
    [decode (bytes 8 0x62F3FD4826CA0000), decode (bytes 8 0x62F3FD08260C2400),
      decode (bytes 12 0x62F3FD08260C257856341200), decode (bytes 11 0x62F3FD08260D1000000000),
      decode (bytes 8 0x62F3FD4826060000), decode (bytes 9 0x62F3FD1A265CCFFE09), decode (bytes 8 0x62F3FD48264EFF00),
      decode (bytes 12 0x62F3FD18268CCF0100000000), decode (bytes 11 0x62F3FD48268E0800000000)].map (fun d =>
        match d with
        | .ok i _ => instrLength i
        | _       => 0) = [7, 8, 12, 11, 7, 9, 8, 12, 11] := by decide

/-- Base rbp (stack segment), without and with broadcast, and base r13 (data segment). -/
theorem witness_Disp8AddressIsScaled :
    (0x4D#8).extractLsb' 6 2 = 1#2 ∧ (0x4D#8).extractLsb' 0 3 ≠ 4#3 ∧
    decode [0x62, 0xF3, 0xFD, 0x08, 0x26, 0x4D, 0xFF, 0x00] = .ok (.xmmMem01 e0 ⟨.reg 5, 0xFF⟩) [] ∧
    decode [0x62, 0xF3, 0xFD, 0x58, 0x26, 0x4D, 0xFF, 0x00] = .ok (.zmmBcst01 e0 ⟨.reg 5, 0xFF⟩) [] ∧
    decode [0x62, 0xD3, 0xFD, 0x28, 0x26, 0x4D, 0xFF, 0x00] = .ok (.ymmMem01 e0 ⟨.reg 13, 0xFF⟩) [] ∧
    rowView s1 (.xmmMem01 e0 ⟨.reg 5, 0xFF⟩) = some ⟨.v128, false, .mem .stack 0xFFFFFFFFFFFFFFF0#64⟩ ∧
    rowView s1 (.zmmBcst01 e0 ⟨.reg 5, 0xFF⟩) = some ⟨.v512, false, .bcst .stack 0xFFFFFFFFFFFFFFF8#64⟩ ∧
    rowView s1 (.ymmMem01 e0 ⟨.reg 13, 0xFF⟩) = some ⟨.v256, false, .mem .data 0xFFFFFFFFFFFFFFE0#64⟩ := by
  decide

theorem witness_RipRelativeAddress :
    (0x0D#8).extractLsb' 6 2 = 0#2 ∧ (0x0D#8).extractLsb' 0 3 = 5#3 ∧
    decode [0x62, 0xF3, 0xFD, 0x08, 0x26, 0x0D, 0xF0, 0xFF, 0xFF, 0xFF, 0] = .ok (.xmmMem00 e0 (.rip 0xFFFFFFF0)) [] ∧
    rowView s1 (.xmmMem00 e0 (.rip 0xFFFFFFF0)) = some ⟨.v128, false, .mem .data 0xFFB#64⟩ := by decide

/-- With an index, base rsp (stack); with none (X = 0, index 100), base rbp (stack); with index r12 (X = 1, index 100),
base r12 (data). -/
theorem witness_SibAddress :
    (0x8C#8).extractLsb' 6 2 = 2#2 ∧ (0x8C#8).extractLsb' 0 3 = 4#3 ∧
    decode [0x62, 0xF3, 0xFD, 0x18, 0x26, 0x8C, 0xF4, 1, 0, 0, 0, 0] =
      .ok (.xmmBcst10 e0 ⟨.sib 4 (some ⟨6, 3⟩), 1⟩) [] ∧
    decode [0x62, 0xF3, 0xFD, 0x48, 0x26, 0x8C, 0xE5, 1, 0, 0, 0, 0] = .ok (.zmmMem10 e0 ⟨.sib 5 none, 1⟩) [] ∧
    decode [0x62, 0x93, 0xFD, 0x48, 0x26, 0x8C, 0xE4, 1, 0, 0, 0, 0] =
      .ok (.zmmMem10 e0 ⟨.sib 12 (some ⟨12, 3⟩), 1⟩) [] ∧
    rowView s1 (.xmmBcst10 e0 ⟨.sib 4 (some ⟨6, 3⟩), 1⟩) = some ⟨.v128, false, .bcst .stack 0x28001#64⟩ ∧
    rowView s1 (.zmmMem10 e0 ⟨.sib 5 none, 1⟩) = some ⟨.v512, false, .mem .stack 1#64⟩ ∧
    rowView s1 (.zmmMem10 e0 ⟨.sib 12 (some ⟨12, 3⟩), 1⟩) = some ⟨.v512, false, .mem .data 1#64⟩ := by
  decide

/-- Base rsp, full width and broadcast with the displacement -1, and base r13. -/
theorem witness_SibDisp8Address :
    (0x4C#8).extractLsb' 6 2 = 1#2 ∧ (0x4C#8).extractLsb' 0 3 = 4#3 ∧
    decode [0x62, 0xF3, 0xFD, 0x28, 0x26, 0x4C, 0x24, 0xFF, 0] = .ok (.ymmMem01 e0 ⟨.sib 4 none, 0xFF⟩) [] ∧
    decode [0x62, 0xD3, 0xFD, 0x38, 0x26, 0x4C, 0xF5, 0xFF, 0] =
      .ok (.ymmBcst01 e0 ⟨.sib 13 (some ⟨6, 3⟩), 0xFF⟩) [] ∧
    rowView s1 (.ymmMem01 e0 ⟨.sib 4 none, 0xFF⟩) = some ⟨.v256, false, .mem .stack 0xFFFFFFFFFFFFFFE0#64⟩ ∧
    rowView s1 (.ymmBcst01 e0 ⟨.sib 13 (some ⟨6, 3⟩), 0xFF⟩) = some ⟨.v256, false, .bcst .data 0x27FF8#64⟩ := by decide

/-- Base rsp without displacement, base 110 with an index; base 101: no base, also with B = 1, with and without index. -/
theorem witness_SibMod00Address :
    (0x0C#8).extractLsb' 6 2 = 0#2 ∧ (0x0C#8).extractLsb' 0 3 = 4#3 ∧
    ((0x24#8).extractLsb' 0 3 ≠ 5#3 ∧
      decode [0x62, 0xF3, 0xFD, 0x08, 0x26, 0x0C, 0x24, 0] = .ok (.xmmMem00 e0 (.plain (.sib 4 none))) [] ∧
      rowView s1 (.xmmMem00 e0 (.plain (.sib 4 none))) = some ⟨.v128, false, .mem .stack 0#64⟩ ∧
      decode [0x62, 0xF3, 0xFD, 0x08, 0x26, 0x0C, 0x76, 0] = .ok (.xmmMem00 e0 (.plain (.sib 6 (some ⟨6, 1⟩)))) [] ∧
      rowView s1 (.xmmMem00 e0 (.plain (.sib 6 (some ⟨6, 1⟩)))) = some ⟨.v128, false, .mem .data 0xF000#64⟩) ∧
    ((0x25#8).extractLsb' 0 3 = 5#3 ∧ (0x75#8).extractLsb' 0 3 = 5#3 ∧
      decode [0x62, 0xF3, 0xFD, 0x08, 0x26, 0x0C, 0x25, 0x78, 0x56, 0x34, 0x12, 0] =
        .ok (.xmmMem00 e0 (.noBase none 0x12345678)) [] ∧
      rowView s1 (.xmmMem00 e0 (.noBase none 0x12345678)) = some ⟨.v128, false, .mem .data 0x12345678#64⟩ ∧
      decode [0x62, 0xD3, 0xFD, 0x58, 0x26, 0x0C, 0x75, 0xFF, 0xFF, 0xFF, 0xFF, 0] =
        .ok (.zmmBcst00 e0 (.noBase (some ⟨6, 1⟩) 0xFFFFFFFF)) [] ∧
      rowView s1 (.zmmBcst00 e0 (.noBase (some ⟨6, 1⟩) 0xFFFFFFFF)) =
        some ⟨.v512, false, .bcst .data 0x9FFF#64⟩) := by decide

/-- Base rsi with mod = 00; base rbp (stack) and base r13 (data) with mod = 10. -/
theorem witness_BaseAddress :
    ((0x0E#8).extractLsb' 0 3 ≠ 4#3 ∧ (0x0E#8).extractLsb' 6 2 = 0#2 ∧ (0x0E#8).extractLsb' 0 3 ≠ 5#3 ∧
      decode [0x62, 0xF3, 0xFD, 0x48, 0x26, 0x0E, 0] = .ok (.zmmMem00 e0 (.plain (.reg 6))) [] ∧
      rowView s1 (.zmmMem00 e0 (.plain (.reg 6))) = some ⟨.v512, false, .mem .data 0x5000#64⟩) ∧
    ((0x8D#8).extractLsb' 0 3 ≠ 4#3 ∧ (0x8D#8).extractLsb' 6 2 = 2#2 ∧
      decode [0x62, 0xF3, 0xFD, 0x28, 0x26, 0x8D, 0xF0, 0xFF, 0xFF, 0xFF, 0] =
        .ok (.ymmMem10 e0 ⟨.reg 5, 0xFFFFFFF0⟩) [] ∧
      rowView s1 (.ymmMem10 e0 ⟨.reg 5, 0xFFFFFFF0⟩) = some ⟨.v256, false, .mem .stack 0xFFFFFFFFFFFFFFF0#64⟩ ∧
      decode [0x62, 0xD3, 0xFD, 0x28, 0x26, 0x8D, 0xF0, 0xFF, 0xFF, 0xFF, 0] =
        .ok (.ymmMem10 e0 ⟨.reg 13, 0xFFFFFFF0⟩) [] ∧
      rowView s1 (.ymmMem10 e0 ⟨.reg 13, 0xFFFFFFF0⟩) =
        some ⟨.v256, false, .mem .data 0xFFFFFFFFFFFFFFF0#64⟩) := by decide

/-- The bytes of `s1` stand at its pc and decode; its step goes on (used for the statements about steps). -/
theorem witness_StepRunsDecoded :
    s1.ctl.mode ≠ .bits32 ∧ BytesAt s1 s1.pc (bytes 7 0x62F3FD4926CA00) ∧
      decode (bytes 7 0x62F3FD4926CA00) = .ok (.zmmReg e1 2) [] := by
  refine ⟨by decide, ?_, by decide⟩
  unfold BytesAt
  decide

/-- A launch state with the bytes at another pc and another memory map. -/
def codeAt (map : List Region) (pc : Word) (code : List Byte) : State :=
  { launchMap map 0 [] with pc := pc, mem := placeBytes [] pc code }

/-- Decoding: E1, and a payload in scope with seven bytes after the opcode.  Refusals: a first byte C5, a first byte 66
before 62; P0 = F2, P1 = 7D, FC and F9 (F11 to F18 of 95_test_vectors.md); the opcode byte 27. -/
theorem witness_OtherBytesRefused :
    decode (bytes 7 0x62F3FD4826CA00) = .ok (.zmmReg e0 2) [] ∧ PayloadInScope 0xF3#8 0xFD#8 ∧
    (bytes 7 0xCA000000000000).length = 7 ∧
    (BytesAt (launch 0 [0xC5]) 0x1000#64 [0xC5] ∧ BytesAt (launch 0 [0x66, 0x62]) 0x1000#64 [0x66]) ∧
    (BytesAt (launch 0 (bytes 4 0x62F2FD48)) 0x1000#64 (bytes 4 0x62F2FD48) ∧ ¬ PayloadInScope 0xF2#8 0xFD#8 ∧
      ¬ PayloadInScope 0xF3#8 0x7D#8 ∧ ¬ PayloadInScope 0xF3#8 0xFC#8 ∧ ¬ PayloadInScope 0xF3#8 0xF9#8) ∧
    BytesAt (launch 0 (bytes 5 0x62F3FD4827)) 0x1000#64 (bytes 5 0x62F3FD4827) ∧
    (launch 0 (bytes 5 0x62F3FD4827)).ctl.mode ≠ .bits32 := by
  unfold BytesAt
  decide

/-- The code is mapped up to 1100H, and a fetchable device follows. -/
def deviceAfterCode : List Region :=
  [{ base := 0x1000, size := 0x100, kind := .ordinary, read := true, fetch := true },
   { base := 0x1100, size := 0x100, kind := .device, read := true, fetch := true }]

/-- The first byte, with nothing before it; and the fifth byte after four that are there and do not decide: the first
address that is not canonical, an unmapped one, a device. -/
theorem witness_FetchFaultComesFirst :
    decode [] = .truncated ∧ decode (bytes 4 0x62F3FD48) = .truncated ∧
    (BytesAt (codeAt smallMap 0x0000800000000000#64 []) 0x0000800000000000#64 [] ∧
      canonical VaBits.bits48 (0x0000800000000000#64 + BitVec.ofNat 64 0) = false) ∧
    (BytesAt (codeAt State.reset.plat.map 0x00007FFFFFFFFFFC#64 (bytes 4 0x62F3FD48)) 0x00007FFFFFFFFFFC#64
        (bytes 4 0x62F3FD48) ∧
      (codeAt State.reset.plat.map 0x00007FFFFFFFFFFC#64 (bytes 4 0x62F3FD48)).plat.vaBits = .bits48 ∧
      canonical VaBits.bits48 (0x00007FFFFFFFFFFC#64 + BitVec.ofNat 64 4) = false) ∧
    (BytesAt (codeAt smallMap 0x10FC#64 (bytes 4 0x62F3FD48)) 0x10FC#64 (bytes 4 0x62F3FD48) ∧
      canonical VaBits.bits48 (0x10FC#64 + BitVec.ofNat 64 4) = true ∧
      permitted smallMap .fetch (0x10FC#64 + BitVec.ofNat 64 4) = false) ∧
    (BytesAt (codeAt deviceAfterCode 0x10FC#64 (bytes 4 0x62F3FD48)) 0x10FC#64 (bytes 4 0x62F3FD48) ∧
      permitted deviceAfterCode .fetch (0x10FC#64 + BitVec.ofNat 64 4) = true ∧
      inDevice deviceAfterCode (0x10FC#64 + BitVec.ofNat 64 4) = true) ∧
    (codeAt smallMap 0x10FC#64 (bytes 4 0x62F3FD48)).ctl.mode ≠ .bits32 := by
  unfold BytesAt
  decide

theorem witness_Mode32IsRefused : (inMode .bits32).ctl.mode = .bits32 := rfl

theorem witness_ResetStateRaisesUd : (Instr.zmmReg e0 2).wf = true := rfl

theorem witness_ReservedVvvvRaisesUd :
    decode (bytes 7 0x62F3F54826CA00) = .ok (.zmmReg { e0 with vvvv := 14 } 2) [] ∧
      (0xF5#8).extractLsb' 3 4 ≠ 15#4 ∧ s1.ctl.mode ≠ .bits32 := by decide

/-- One word for each of the three conditions: F3, F4, F5 of 95_test_vectors.md section 4.3. -/
theorem witness_OtherReservedEncodingsRaiseUd :
    s1.ctl.mode ≠ .bits32 ∧
    (decode (bytes 7 0x62F3FD4026CA00) = .ok (.zmmReg { e0 with vp := false } 2) [] ∧ (0x40#8).getLsbD 3 = false) ∧
    (decode (bytes 7 0x62F3FDC826CA00) = .ok (.zmmReg { e0 with z := true } 2) [] ∧
      (0xC8#8).getLsbD 7 = true ∧ (0xC8#8).extractLsb' 0 3 = 0#3) ∧
    (decode (bytes 7 0x62F3FD6826CA00) = .ok (.udReg e0 2) [] ∧ (0x68#8).extractLsb' 5 2 = 3#2 ∧
      ¬ ((0xCA#8).extractLsb' 6 2 = 3#2 ∧ (0x68#8).getLsbD 4 = true)) := by decide

theorem witness_ReservedRowsAlwaysStop : s1.ctl.mode ≠ .bits32 := by decide

/-- Each missing feature or enablement bit by itself. -/
theorem witness_MissingEnablementRaisesUd :
    rowView (withFeatures false true) (.zmmReg e0 2) = some ⟨.v512, false, .reg 2⟩ ∧
    (withFeatures false true).ctl.avx512f = false ∧
    rowView (withFeatures true false) (.ymmReg e0 2) = some ⟨.v256, false, .reg 2⟩ ∧
    (withFeatures true false).ctl.avx512vl = false ∧
    (withCtl 0 0 0xE7).ctl.osxsave = false ∧ (withCtl 0 0x40000 0xE5).ctl.xcr0.extractLsb' 1 2 ≠ 3#2 ∧
    (withCtl 0 0x40000 0xC7).ctl.xcr0.extractLsb' 5 3 ≠ 7#3 ∧ (withCtl 0 0x40000 0xC7).ctl.mode ≠ .bits32 := by
  decide

theorem witness_TaskSwitchedRaisesNm :
    (withCtl 8 0x40000 0xE7).ctl.ts = true ∧
      Runnable .v512 e0 { withCtl 8 0x40000 0xE7 with
        ctl := { (withCtl 8 0x40000 0xE7).ctl with cr0 := (withCtl 8 0x40000 0xE7).ctl.cr0 &&& ~~~ 8#64 } } := by
  decide

/-- One state for each policy. -/
theorem witness_ImmHighBitsPolicy :
    rowView (withPolicy .refuse) (.zmmReg (fields 1 0 false 0x10) 2) = some ⟨.v512, false, .reg 2⟩ ∧
    (fields 1 0 false 0x10).imm8.extractLsb' 4 4 ≠ 0#4 ∧
    ((withPolicy .refuse).plat.immHi = .refuse ∧ Mode64 (withPolicy .refuse) ∧ FieldsLegal (fields 1 0 false 0x10) ∧
      VectorStateEnabled .v512 (withPolicy .refuse)) ∧
    ((withPolicy .ud).plat.immHi = .ud ∧ (withPolicy .ud).ctl.mode ≠ .bits32) ∧
    (withPolicy .ignore).plat.immHi = .ignore := by decide

theorem witness_XmmRegisterRowCompletes :
    Runnable .v128 e1 s1 ∧ SignalsMasked .v128 (double (s1.vreg 2)) e1 s1 := by decide +kernel

theorem witness_YmmRegisterRowCompletes :
    Runnable .v256 e1 s1 ∧ SignalsMasked .v256 (double (s1.vreg 2)) e1 s1 := by decide +kernel

theorem witness_ZmmRegisterRowCompletes :
    Runnable .v512 e1 s1 ∧ SignalsMasked .v512 (double (s1.vreg 2)) e1 s1 := by decide +kernel

theorem witness_SaeRowCompletes : Runnable .v512 e1 (s1.setMxcsr 0#32) := by decide

/-- What the statements about full-width memory rows assume. -/
abbrev MemoryHyps (vl : VL) (e : Evex) (ea : Word) (s : State) : Prop :=
  Runnable vl e s ∧
  (∀ i, i < vlElements vl → LaneActive s e i → ReadableDouble s (ea + BitVec.ofNat 64 (8 * i))) ∧
  SignalsMasked vl (fun i => doubleAt s (ea + BitVec.ofNat 64 (8 * i))) e s

/-- What the statements about broadcast rows assume. -/
abbrev BroadcastHyps (vl : VL) (e : Evex) (ea : Word) (s : State) : Prop :=
  Runnable vl e s ∧ (∀ i, i < vlElements vl → LaneActive s e i → ReadableDouble s ea) ∧
  SignalsMasked vl (fun _ => doubleAt s ea) e s

/-- Base RSI without, with an 8-bit and with a 32-bit displacement: the three addresses of a memory row. -/
def a00 : Addr00 := .plain (.reg 6)
@[inherit_doc a00] def a01 : Addr01 := ⟨.reg 6, 0xFF⟩
@[inherit_doc a00] def a10 : Addr10 := ⟨.reg 6, 0xFFFFFFF8⟩

theorem witness_XmmMemoryRowsComplete :
    MemoryHyps .v128 e1 (ea00 s1 (len00 a00) a00) s1 ∧ MemoryHyps .v128 e1 (ea01 s1 16 a01) s1 ∧
      MemoryHyps .v128 e1 (ea10 s1 a10) s1 := by
  refine ⟨?_, ?_, ?_⟩ <;> exact ⟨by decide, by decide, by decide⟩

theorem witness_YmmMemoryRowsComplete :
    MemoryHyps .v256 e1 (ea00 s1 (len00 a00) a00) s1 ∧ MemoryHyps .v256 e1 (ea01 s1 32 a01) s1 ∧
      MemoryHyps .v256 e1 (ea10 s1 a10) s1 := by
  refine ⟨?_, ?_, ?_⟩ <;> exact ⟨by decide, by decide, by decide⟩

theorem witness_ZmmMemoryRowsComplete :
    MemoryHyps .v512 e1 (ea00 s1 (len00 a00) a00) s1 ∧ MemoryHyps .v512 e1 (ea01 s1 64 a01) s1 ∧
      MemoryHyps .v512 e1 (ea10 s1 a10) s1 := by
  refine ⟨?_, ?_, ?_⟩ <;> exact ⟨by decide, by decide, by decide⟩

theorem witness_XmmBroadcastRowsComplete :
    BroadcastHyps .v128 e1 (ea00 s1 (len00 a00) a00) s1 ∧ BroadcastHyps .v128 e1 (ea01 s1 8 a01) s1 ∧
      BroadcastHyps .v128 e1 (ea10 s1 a10) s1 := by
  refine ⟨?_, ?_, ?_⟩ <;> exact ⟨by decide, by decide, by decide⟩

theorem witness_YmmBroadcastRowsComplete :
    BroadcastHyps .v256 e1 (ea00 s1 (len00 a00) a00) s1 ∧ BroadcastHyps .v256 e1 (ea01 s1 8 a01) s1 ∧
      BroadcastHyps .v256 e1 (ea10 s1 a10) s1 := by
  refine ⟨?_, ?_, ?_⟩ <;> exact ⟨by decide, by decide, by decide⟩

theorem witness_ZmmBroadcastRowsComplete :
    BroadcastHyps .v512 e1 (ea00 s1 (len00 a00) a00) s1 ∧ BroadcastHyps .v512 e1 (ea01 s1 8 a01) s1 ∧
      BroadcastHyps .v512 e1 (ea10 s1 a10) s1 := by
  refine ⟨?_, ?_, ?_⟩ <;> exact ⟨by decide, by decide, by decide⟩

/-- A row that completes, here with an all-zero mask under merging. -/
theorem witness_UpperBitsCleared :
    rowView (launch 0 []) (.xmmReg e1 2) = some ⟨.v128, false, .reg 2⟩ ∧
    (nextOf (exec (.xmmReg e1 2) (launch 0 [])) State.pc).isSome = true ∧
    (∀ k, k < vlElements .v128 → ¬ LaneActive (launch 0 []) e1 k) ∧ e1.z = false := by decide

/-- Element 0 of zmm2 is a signaling NaN, Invalid is masked and Denormal is not. -/
def sMasked : State := (launchZ 0x7FF0000000000001#64 1 []).setMxcsr 0x1E80#32

/-- Every element of a source at readable addresses is readable. -/
theorem elementReadable_of {s : State} {src : Source} {k : Nat}
    (h : ∀ p ∈ (elementAddr src k).toList, ReadableDouble s p.2) : ElementReadable s src k :=
  fun p hp => h p (by simp [hp])

/-- A memory row over ordinary numbers, and a register row whose element 0 signals Invalid while only Denormal is not
masked. -/
theorem witness_MaskedResponse :
    (rowView s1 (.zmmMem00 e1 a00) = some ⟨.v512, false, .mem .data 0x5000#64⟩ ∧ Runnable .v512 e1 s1 ∧
      (∀ k, k < vlElements .v512 → LaneActive s1 e1 k → ElementReadable s1 (.mem .data 0x5000#64) k) ∧
      SignalsMasked .v512 (elementValue s1 (.mem .data 0x5000#64)) e1 s1) ∧
    (rowView sMasked (.zmmReg e1 2) = some ⟨.v512, false, .reg 2⟩ ∧ Runnable .v512 e1 sMasked ∧
      SignalsInvalid .v512 (elementValue sMasked (.reg 2)) e1 sMasked ∧
      SignalsMasked .v512 (elementValue sMasked (.reg 2)) e1 sMasked) := by
  refine ⟨⟨by decide, by decide, fun k hk ha => elementReadable_of ?_, by decide⟩, rfl, by decide, by decide +kernel,
    by decide +kernel⟩
  revert k
  decide

/-- Element 0 of zmm2 is a signaling NaN and Invalid is not masked. -/
def sInvalid : State := (launchZ 0x7FF0000000000001#64 1 []).setMxcsr 0x1F00#32

/-- Element 0 of zmm2 is a denormal and Denormal is not masked. -/
def sDenormal : State := (launchZ 3#64 1 []).setMxcsr 0x1E80#32

theorem witness_UnmaskedExceptionTraps :
    (rowView sInvalid (.zmmReg e1 2) = some ⟨.v512, false, .reg 2⟩ ∧ Runnable .v512 e1 sInvalid ∧
      ¬ SignalsMasked .v512 (elementValue sInvalid (.reg 2)) e1 sInvalid) ∧
    (rowView sDenormal (.zmmReg e1 2) = some ⟨.v512, false, .reg 2⟩ ∧ Runnable .v512 e1 sDenormal ∧
      ¬ SignalsMasked .v512 (elementValue sDenormal (.reg 2)) e1 sDenormal) ∧
    ∀ s k, ElementReadable s (.reg 2) k := by
  refine ⟨⟨rfl, by decide, by decide +kernel⟩, ⟨rfl, by decide, by decide +kernel⟩, ?_⟩
  intro s k p hp
  cases hp

/-- Element 1 is active and stands just past the mapped bytes. -/
theorem witness_MemoryFaultIsReported :
    rowView (launchMap smallMap 3 []) (.zmmMem00 e1 a00) = some ⟨.v512, false, .mem .data 0x5000#64⟩ ∧
    Runnable .v512 e1 (launchMap smallMap 3 []) ∧
    (∀ k, k < vlElements .v512 → ∀ j, j < 8 →
      inDevice smallMap (0x5000#64 + BitVec.ofNat 64 (8 * k) + BitVec.ofNat 64 j) = false) ∧
    LaneActive (launchMap smallMap 3 []) e1 1 ∧
    elementAddr (.mem .data 0x5000#64) 1 = some (.data, 0x5008#64) ∧
    (memFault (launchMap smallMap 3 []) .dataRead .data 0x5008#64 8).isSome = true := by decide

/-- One address for each clause: the last byte is the first that is not canonical; the last byte is unmapped; readable. -/
theorem witness_ElementFaultKinds :
    (∃ j, j < 8 ∧ canonical s1.plat.vaBits (0x00007FFFFFFFFFF9#64 + BitVec.ofNat 64 j) = false) ∧
    ((∀ j, j < 8 → canonical (launchMap smallMap 0 []).plat.vaBits (0x5001#64 + BitVec.ofNat 64 j) = true) ∧
      ∃ j, j < 8 ∧ permitted (launchMap smallMap 0 []).plat.map .dataRead (0x5001#64 + BitVec.ofNat 64 j) = false) ∧
    ReadableDouble (launchMap smallMap 0 []) 0x5000#64 := by decide

theorem witness_DeviceReadIsRefused :
    rowView (launchMap deviceMap 1 []) (.zmmMem00 e1 a00) = some ⟨.v512, false, .mem .data 0x5000#64⟩ ∧
    Runnable .v512 e1 (launchMap deviceMap 1 []) ∧ LaneActive (launchMap deviceMap 1 []) e1 0 ∧
    elementAddr (.mem .data 0x5000#64) 0 = some (.data, 0x5000#64) ∧
    memFault (launchMap deviceMap 1 []) .dataRead .data 0x5000#64 8 = none ∧
    ∃ j, j < 8 ∧ inDevice deviceMap (0x5000#64 + BitVec.ofNat 64 j) = true := by decide

theorem witness_NoActiveLaneReadsNothing :
    rowView (launchMap [] 0 []) (.zmmMem00 e1 a00) = some ⟨.v512, false, .mem .data 0x5000#64⟩ ∧
    Runnable .v512 e1 (launchMap [] 0 []) ∧
    ∀ k, k < vlElements .v512 → ¬ LaneActive (launchMap [] 0 []) e1 k := by decide

theorem witness_SaeResultsEqualRegisterRow :
    (nextOf (exec (.zmmReg e1 2) s1) State.pc).isSome = true ∧
      (nextOf (exec (.zmmSae e1 2) s1) State.pc).isSome = true := by decide +kernel

/-- Other rounding control, FTZ, masks and flags; IE, DE, DAZ, IM and DM the same. -/
theorem witness_OtherMxcsrBitsDoNotMatter : 0xE1BC#32 &&& 0x1C3#32 = s1.mxcsr &&& 0x1C3#32 := by decide

/-- Another memory and map that read the same at the one active element; another mask that agrees below KL. -/
theorem witness_WritemaskRule :
    rowView (launch 1 []) (.zmmMem00 e1 a00) = some ⟨.v512, false, .mem .data 0x5000#64⟩ ∧
    (nextOf (exec (.zmmMem00 e1 a00) (launch 1 [])) State.pc).isSome = true ∧
    (∀ k, k < vlElements .v512 → LaneActive (launch 1 []) e1 k →
      nextOf (sourceElement { launch 1 [] with
        mem := (0, 7#8) :: (launch 1 []).mem, plat := { (launch 1 []).plat with map := smallMap } }
        (.mem .data 0x5000#64) k) id = some 0x4022000000000000#64 ∧
      nextOf (sourceElement (launch 1 []) (.mem .data 0x5000#64) k) id = some 0x4022000000000000#64) ∧
    (∀ k, k < vlElements .v512 → (0xF01#64).getLsbD k = ((launch 1 []).kreg e1.aaa).getLsbD k) := by decide

/-- A memory row and a register row whose element 0 is the same. -/
theorem witness_ElementsAreIndependent :
    rowView s1 (.zmmMem00 e1 a00) = some ⟨.v512, false, .mem .data 0x5000#64⟩ ∧
    rowView (launchZ 0x4022000000000000#64 1 []) (.xmmReg e1 2) = some ⟨.v128, false, .reg 2⟩ ∧
    LaneActive s1 e1 0 ∧ LaneActive (launchZ 0x4022000000000000#64 1 []) e1 0 ∧
    elementValue s1 (.mem .data 0x5000#64) 0 = elementValue (launchZ 0x4022000000000000#64 1 []) (.reg 2) 0 ∧
    s1.mxcsr.getLsbD 6 = (launchZ 0x4022000000000000#64 1 []).mxcsr.getLsbD 6 ∧
    (nextOf (exec (.zmmMem00 e1 a00) s1) State.pc).isSome = true ∧
    (nextOf (exec (.xmmReg e1 2) (launchZ 0x4022000000000000#64 1 [])) State.pc).isSome = true := by decide +kernel

/-- One element for each clause, at the ends of its range where it has one. -/
theorem witness_SpecialElements :
    (expOf 0x7FF7FFFFFFFFFFFF#64 = 0x7FF#11 ∧ fracOf 0x7FF7FFFFFFFFFFFF#64 ≠ 0#52 ∧
      (fracOf 0x7FF7FFFFFFFFFFFF#64).getLsbD 51 = false) ∧
    (expOf 0xFFF8000000000000#64 = 0x7FF#11 ∧ (fracOf 0xFFF8000000000000#64).getLsbD 51 = true) ∧
    (expOf 0x000FFFFFFFFFFFFF#64 = 0#11 ∧ (0x000FFFFFFFFFFFFF#64).getLsbD 63 = false) ∧
    (expOf 0x8000000000000000#64 = 0#11 ∧ fracOf 0x8000000000000000#64 = 0#52 ∧
      (0x8000000000000000#64).getLsbD 63 = true) ∧
    (0#2).getLsbD 1 = false ∧
    ((0x8000000000000001#64).getLsbD 63 = true ∧ (2#2).getLsbD 1 = true ∧
      expOf 0x8000000000000001#64 ≠ 0x7FF#11 ∧ fracOf 0x8000000000000001#64 ≠ 0#52) := by decide

/-- One element for each step: NaN; +0, +infinity; -0; -infinity; negative finite; the smallest and the largest normal
element, and the denormals of 52 iterations and of one. -/
theorem witness_ElementFunction :
    (expOf 0x7FF0000000000001#64 = 0x7FF#11 ∧ fracOf 0x7FF0000000000001#64 ≠ 0#52) ∧
    (expOf 0#64 = 0#11 ∧ fracOf 0#64 = 0#52 ∧ expOf 0x7FF0000000000000#64 = 0x7FF#11 ∧
      fracOf 0x7FF0000000000000#64 = 0#52) ∧
    (expOf 0x8000000000000000#64 = 0#11 ∧ fracOf 0x8000000000000000#64 = 0#52) ∧
    (expOf 0xFFF0000000000000#64 = 0x7FF#11 ∧ fracOf 0xFFF0000000000000#64 = 0#52) ∧
    (expOf 0xBFF0000000000000#64 = 1023#11 ∧ (0xBFF0000000000000#64).getLsbD 63 = true) ∧
    (expOf 0x0010000000000000#64 = 1#11 ∧ expOf 0x7FEFFFFFFFFFFFFF#64 = 0x7FE#11) ∧
    (expOf 1#64 = 0#11 ∧ (fracOf 1#64).getLsbD (52 - 52) = true ∧ (1#64).getLsbD 63 = false ∧
      (fracOf 0x000FFFFFFFFFFFFF#64).getLsbD (52 - 1) = true) := by decide

/-- The smallest (p = 0) and the largest (p = 51) denormal element. -/
theorem witness_DenormalElements :
    (expOf 1#64 = 0#11 ∧ (fracOf 1#64).getLsbD 0 = true ∧ fracOf 1#64 < 2#52 ∧ (1#64).getLsbD 63 = false) ∧
    (expOf 0xFFFFFFFFFFFFF#64 = 0#11 ∧ (fracOf 0xFFFFFFFFFFFFF#64).getLsbD 51 = true ∧
      (0xFFFFFFFFFFFFF#64).getLsbD 63 = false) := by decide

theorem witness_RealValueOfResult :
    expOf 0xC008000000000000#64 ≠ 0x7FF#11 ∧ expOf 0xC008000000000000#64 ≠ 0#11 ∧ (1#2).getLsbD 1 = false := by
  decide

theorem witness_StepFrame : (nextOf (step s1) State.pc).isSome = true := by decide +kernel

theorem witness_StepKeepsInv : Inv s1 ∧ (nextOf (step s1) State.pc).isSome = true := by decide +kernel

theorem witness_RunFrame : nextOf (Host.Core.run core 2
    (launch 3 (bytes 14 0x62F3FD4926CA0062F3FD4826C900))) State.pc = some 0x100E#64 := by decide +kernel

theorem witness_OnlyTheDestinationChanges :
    BytesAt s1 s1.pc (bytes 7 0x62F3FD4926CA00) ∧ decode (bytes 7 0x62F3FD4926CA00) = .ok (.zmmReg e1 2) [] ∧
      (nextOf (step s1) State.pc).isSome = true ∧ (2#5 : VReg) ≠ (Instr.zmmReg e1 2).evex.dest :=
  ⟨witness_StepRunsDecoded.2.1, by decide, by decide +kernel, by decide⟩

end Sys2Proof.Tests
end

section
/-! The reserved encodings of 30_encoding.md section 7: what the decoder keeps of the payload bytes, and the `#UD` of
every row whose reserved fields are not legal. -/

namespace Sys2Proof

/-! ## The EVEX fields that decoding keeps -/

@[simp] theorem evex_regInstr (b : Bool) (ll : Option VL) (e : Evex) (r : VReg) : (regInstr b ll e r).evex = e := by
  cases b with
  | true => rfl
  | false => rcases ll with _ | _ | _ | _ <;> rfl

@[simp] theorem evex_mem00Instr (b : Bool) (ll : Option VL) (e : Evex) (a : Addr00) :
    (mem00Instr b ll e a).evex = e := by
  cases b <;> rcases ll with _ | _ | _ | _ <;> rfl

@[simp] theorem evex_mem01Instr (b : Bool) (ll : Option VL) (e : Evex) (a : Addr01) :
    (mem01Instr b ll e a).evex = e := by
  cases b <;> rcases ll with _ | _ | _ | _ <;> rfl

@[simp] theorem evex_mem10Instr (b : Bool) (ll : Option VL) (e : Evex) (a : Addr10) :
    (mem10Instr b ll e a).evex = e := by
  cases b <;> rcases ll with _ | _ | _ | _ <;> rfl

/-- Whatever row the operands select, its EVEX fields are those of the payload bytes and ModRM (30_encoding.md R73 to
R75). -/
theorem evex_of_decodeOperands {p0 p1 p2 modrm : Byte} {bs rest : List Byte} {i : Instr}
    (h : decodeOperands p0 p1 p2 modrm bs = some (i, rest)) : ∃ imm8, i.evex = evexOf p0 p1 p2 modrm imm8 := by
  unfold decodeOperands at h
  split_ifs at h
  · obtain ⟨m, -, hi⟩ := Option.map_eq_some_iff.1 h
    obtain ⟨rfl, -⟩ := Prod.mk.inj hi
    exact ⟨m.1, evex_regInstr ..⟩
  all_goals
    obtain ⟨a, -, h⟩ := Option.bind_eq_some_iff.1 h
    obtain ⟨m, -, hi⟩ := Option.map_eq_some_iff.1 h
    obtain ⟨rfl, -⟩ := Prod.mk.inj hi
    exact ⟨m.1, by simp⟩

/-- What the opcode step can do, when it answers an instruction (30_encoding.md R95 steps 5 to 7). -/
theorem decodeOpcode_eq_ok {p0 p1 p2 : Byte} {bs rest : List Byte} {i : Instr} :
    decodeOpcode p0 p1 p2 bs = .ok i rest ↔
      ∃ modrm bs', bs = 0x26#8 :: modrm :: bs' ∧ decodeOperands p0 p1 p2 modrm bs' = some (i, rest) := by
  rcases bs with _ | ⟨op, bs⟩
  · simp [decodeOpcode]
  rcases eq_or_ne op 0x26#8 with rfl | hop
  · rcases bs with _ | ⟨modrm, bs⟩
    · simp [decodeOpcode]
    · cases h : decodeOperands p0 p1 p2 modrm bs <;> simp [decodeOpcode, h, Prod.ext_iff]
  · simp [decodeOpcode, hop]

/-- What decoding can do past the payload bytes, when it answers an instruction (30_encoding.md R95 steps 1 to 7). -/
theorem decode_payload_eq_ok {p0 p1 p2 : Byte} {bs rest : List Byte} {i : Instr} :
    decode (0x62#8 :: p0 :: p1 :: p2 :: bs) = .ok i rest ↔
      mapOk p0 = true ∧ formOk p1 = true ∧
        ∃ modrm bs', bs = 0x26#8 :: modrm :: bs' ∧ decodeOperands p0 p1 p2 modrm bs' = some (i, rest) := by
  rw [← decodeOpcode_eq_ok]
  cases hm : mapOk p0 <;> cases hf : formOk p1 <;> simp [decode, decodePayload, hm, hf]

/-- The stored `vvvv` of a decoded instruction is `P1[6:3]` (30_encoding.md R74). -/
theorem vvvv_of_decode {p0 p1 p2 : Byte} {bs rest : List Byte} {i : Instr}
    (h : decode (0x62#8 :: p0 :: p1 :: p2 :: bs) = .ok i rest) : i.evex.vvvv = p1.extractLsb' 3 4 := by
  obtain ⟨-, -, modrm, bs', -, hops⟩ := decode_payload_eq_ok.1 h
  obtain ⟨imm8, he⟩ := evex_of_decodeOperands hops
  rw [he, evexOf]

end Sys2Proof

namespace Sys2Proof.Machine

open Sys2Proof.Safety

/-! ## Reserved fields raise `#UD` -/

/-- Outside the 32-bit modes the mode check passes or raises `#UD` (10_state.md R31, R35). -/
theorem modeCheck_cases {s : State} (hm : s.ctl.mode ≠ .bits32) :
    modeCheck s = .next () ∨ modeCheck s = .fault .invalidOpcode := by
  unfold modeCheck
  cases hmode : s.ctl.mode with
  | bits64 => exact .inl rfl
  | bits32 => exact absurd hmode hm
  | realAddress => exact .inr rfl

/-- A meaning that raises `#UD` after the mode check raises `#UD` in every mode but the 32-bit ones. -/
theorem modeCheck_andThen_ud {α : Type} {s : State} {f : Unit → Result α} (hm : s.ctl.mode ≠ .bits32)
    (hf : f () = .fault .invalidOpcode) : andThen (modeCheck s) f = .fault .invalidOpcode := by
  rcases modeCheck_cases hm with h | h <;> simp [h, hf]

theorem reservedLength_ud {s : State} (hm : s.ctl.mode ≠ .bits32) : reservedLength s = .fault .invalidOpcode :=
  modeCheck_andThen_ud hm rfl

/-- The checks of the reserved fields come before every other check but the mode's (30_encoding.md R88 to R90, R95). -/
theorem checks_ud_of_not_fieldsLegal {vl : VL} {e : Evex} {s : State} (hm : s.ctl.mode ≠ .bits32)
    (he : ¬ FieldsLegal e) : checks vl e s = .fault .invalidOpcode := by
  have hr : reservedOk e = false := by simpa only [Bool.not_eq_true] using mt reservedOk_iff.1 he
  exact modeCheck_andThen_ud hm (by simp [hr, udUnless])

/-- Every row, reserved or not, raises `#UD` when its reserved fields are not legal. -/
theorem exec_ud_of_not_fieldsLegal {i : Instr} {s : State} (hm : s.ctl.mode ≠ .bits32)
    (he : ¬ FieldsLegal i.evex) : exec i s = .fault .invalidOpcode := by
  cases hv : rowView s i with
  | none => rw [exec_of_rowView_none hv, reservedLength_ud hm]
  | some v => rw [exec_eq_vgetmantpd hv, vgetmantpd, checks_ud_of_not_fieldsLegal hm he, andThen_fault]

/-- Settles O16: decoding keeps `P1[6:3]` as the row's `vvvv`, and a row whose `vvvv` is not 1111 raises `#UD`. -/
theorem reservedVvvvRaisesUd : Obligations.ReservedVvvvRaisesUd := by
  intro p0 p1 p2 bs rest i s hdec hvvvv hm
  refine exec_ud_of_not_fieldsLegal hm fun ⟨hlegal, _, _⟩ => hvvvv ?_
  rw [← vvvv_of_decode hdec, hlegal]

end Sys2Proof.Machine
end

section
/-! The element function of 40_vgetmantpd.md R112: one equation for each `return` of its steps, and what the loop of
step 4 leaves. -/

namespace Sys2Proof.Machine

/-! ## The classes of an element (10_state.md R25) -/

theorem isNan_iff {x : Word} : isNan x = true ↔ expOf x = 0x7FF#11 ∧ fracOf x ≠ 0#52 := by simp [isNan]

theorem isInfinity_iff {x : Word} : isInfinity x = true ↔ expOf x = 0x7FF#11 ∧ fracOf x = 0#52 := by simp [isInfinity]

theorem isZero_iff {x : Word} {daz : Bool} :
    isZero x daz = true ↔ expOf x = 0#11 ∧ (fracOf x = 0#52 ∨ daz = true) := by simp [isZero]

theorem isDenormal_iff {x : Word} {daz : Bool} :
    isDenormal x daz = true ↔ expOf x = 0#11 ∧ fracOf x ≠ 0#52 ∧ daz = false := by simp [isDenormal, and_assoc]

/-! ## The loop of step 4 -/

/-- The loop ends at its first iteration that shifts a 1 out: where the topmost 1 of the fraction is bit `51 - n`, that
is iteration `n + 1` (R115). -/
theorem normalise_eq {n fuel : Nat} {exp : BitVec 11} {frac : BitVec 52} (hfuel : n < fuel)
    (htop : frac.getLsbD (51 - n) = true) (hn : n < 52) (habove : ∀ m < n, frac.getLsbD (51 - m) = false) :
    normalise fuel exp frac = (exp - BitVec.ofNat 11 (n + 1), frac <<< (n + 1)) := by
  induction n generalizing fuel exp frac with
  | zero =>
    obtain ⟨fuel, rfl⟩ := Nat.exists_eq_succ_of_ne_zero hfuel.ne'
    rw [normalise, if_pos htop]
  | succ n ih =>
    obtain ⟨fuel, rfl⟩ := Nat.exists_eq_succ_of_ne_zero (Nat.ne_zero_of_lt hfuel)
    have shifted : ∀ m < 51, (frac <<< 1).getLsbD (51 - m) = frac.getLsbD (51 - (m + 1)) := fun m hm => by
      rw [BitVec.getLsbD_shiftLeft, show 51 - m - 1 = 51 - (m + 1) by omega]
      simp [show 51 - m < 52 by omega, show ¬ 51 - m < 1 by omega]
    have hnot : ¬ frac.getLsbD 51 = true := ne_true_of_eq_false (habove 0 n.succ_pos)
    rw [normalise, if_neg hnot, ih (by omega) ((shifted n (by omega)).trans htop) (by omega)
      fun m hm => (shifted m (by omega)).trans (habove (m + 1) (by omega))]
    congr 1
    · rw [BitVec.sub_sub, ← BitVec.ofNat_add, Nat.add_comm 1]
    · rw [← BitVec.shiftLeft_add, Nat.add_comm 1]

/-- A fraction that is not zero has a topmost 1. -/
theorem exists_top_bit {frac : BitVec 52} (h : frac ≠ 0#52) :
    ∃ n < 52, frac.getLsbD (51 - n) = true ∧ ∀ m < n, frac.getLsbD (51 - m) = false := by
  have hex : ∃ n, n < 52 ∧ frac.getLsbD (51 - n) = true := by
    by_contra hall
    push Not at hall
    refine h (BitVec.eq_of_getLsbD_eq fun i hi => ?_)
    simpa [show 51 - (51 - i) = i by omega] using hall (51 - i) (by omega)
  obtain ⟨hn, htop⟩ := Nat.find_spec hex
  refine ⟨Nat.find hex, hn, htop, fun m hm => ?_⟩
  simpa [hm.trans hn] using Nat.find_min hex hm

/-! ## The steps -/

section Steps
variable {x : Word} {sc iv : BitVec 2} {daz : Bool}

/-- Step 1. -/
theorem getmant_nan (hn : isNan x = true) : getmant x sc iv daz = ⟨qnan x, isSnan x, false⟩ := by
  simp [getmant, hn]

/-- Step 2. -/
theorem getmant_positive_special (hn : isNan x = false) (hs : signOf x = false)
    (h : isZero x daz = true ∨ isInfinity x = true) : getmant x sc iv daz = ⟨plusOne, false, false⟩ := by
  simp [getmant, hn, hs, h]

/-- Step 3, class `zero`. -/
theorem getmant_negative_zero (hn : isNan x = false) (hs : signOf x = true) (hz : isZero x daz = true) :
    getmant x sc iv daz = ⟨signedOne sc, false, false⟩ := by
  simp [getmant, hn, hs, hz]

/-- Step 3, a sign that is refused: everything negative outside class `zero` under `sc[1] = 1`. -/
theorem getmant_refused_sign (hn : isNan x = false) (hs : signOf x = true) (hz : isZero x daz = false)
    (hsc : sc.getLsbD 1 = true) : getmant x sc iv daz = ⟨qnanIndefinite, true, false⟩ := by
  simp [getmant, hn, hs, hz, hsc]

/-- Step 3, class `infinity` with the sign accepted. -/
theorem getmant_negative_infinity (hn : isNan x = false) (hs : signOf x = true) (hz : isZero x daz = false)
    (hi : isInfinity x = true) (hsc : sc.getLsbD 1 = false) :
    getmant x sc iv daz = ⟨signedOne sc, false, false⟩ := by
  simp [getmant, hn, hs, hz, hi, hsc, -BitVec.getLsbD_eq_getElem]

/-- Where no step before step 4 returns. -/
theorem getmant_finite (hn : isNan x = false) (hz : isZero x daz = false) (hi : isInfinity x = false)
    (hs : signOf x = false ∨ sc.getLsbD 1 = false) : getmant x sc iv daz = getmantFinite x sc iv daz := by
  rcases hs with hs | hs <;> simp [getmant, hn, hz, hi, hs, -BitVec.getLsbD_eq_getElem]

/-- Steps 4 to 6 without the denormal branch. -/
theorem getmantFinite_normal (hd : isDenormal x daz = false) :
    getmantFinite x sc iv daz =
      ⟨finishMant (signOf x && !sc.getLsbD 0) iv (expOf x) (fracOf x), false, false⟩ := by
  cases h : sc.getLsbD 0 <;> simp [getmantFinite, hd, h, -BitVec.getLsbD_eq_getElem]

/-- Steps 4 to 6 with the denormal branch. -/
theorem getmantFinite_denormal (hd : isDenormal x daz = true) {n : Nat} (hn : n < 52)
    (htop : (fracOf x).getLsbD (51 - n) = true) (habove : ∀ m < n, (fracOf x).getLsbD (51 - m) = false) :
    getmantFinite x sc iv daz =
      ⟨finishMant (signOf x && !sc.getLsbD 0) iv (1023#11 - BitVec.ofNat 11 (n + 1)) (fracOf x <<< (n + 1)),
        false, true⟩ := by
  cases h : sc.getLsbD 0 <;> simp [getmantFinite, hd, h, normalise_eq hn htop hn habove, -BitVec.getLsbD_eq_getElem]

/-- Step 6 with step 5 written out. -/
theorem finishMant_eq (sign : Bool) (exp : BitVec 11) (frac : BitVec 52) :
    finishMant sign iv exp frac =
      BitVec.ofBool sign ++
        (if iv = 0#2 then 1023#11
         else if iv = 1#2 then (if ((exp.toNat : ℤ) - 1023) % 2 = 1 then 1022#11 else 1023#11)
         else if iv = 2#2 then 1022#11
         else (if frac.getLsbD 51 then 1022#11 else 1023#11)) ++ frac := by
  simp [finishMant, packElement, resultExp, oddExp]

theorem getmantFinite_ie : (getmantFinite x sc iv daz).ie = false := by
  unfold getmantFinite
  cases isDenormal x daz <;> rfl

/-- Invalid and Denormal are never both signalled: every path that signals Invalid returns before step 4 (R112). -/
theorem getmant_ie_and_de : ¬ ((getmant x sc iv daz).ie = true ∧ (getmant x sc iv daz).de = true) := by
  rintro ⟨hie, hde⟩
  unfold getmant at hie hde
  split_ifs at hie hde
  exact Bool.false_ne_true (getmantFinite_ie.symm.trans hie)

end Steps

/-- Settles O44: one equation of the function for each step, and the loop of step 4 at its first 1. -/
theorem elementFunction : Obligations.ElementFunction := by
  intro x sc iv daz
  simp only [← isNan_iff, ← isZero_iff, ← isDenormal_iff, ← isInfinity_iff, Bool.not_eq_true]
  refine ⟨fun hn => ?nan, getmant_positive_special, getmant_negative_zero, fun hn hs hi => ?infinity,
    fun hn hs hz _ hsc => getmant_refused_sign hn hs hz hsc, fun hn hz hi hs => ?finite, getmant_ie_and_de⟩
  case nan => rw [getmant_nan hn, isSnan, hn, Bool.true_and]
  case infinity =>
    have hz : isZero x daz = false := by simp [isZero, (isInfinity_iff.1 hi).1]
    cases hsc : sc.getLsbD 1 with
    | true => exact getmant_refused_sign hn hs hz hsc
    | false => exact getmant_negative_infinity hn hs hz hi hsc
  case finite =>
    rw [getmant_finite hn hz hi hs]
    cases hd : isDenormal x daz with
    | false =>
      rw [getmantFinite_normal hd]
      exact ⟨expOf x, fracOf x, .inl ⟨by simp, rfl, rfl, rfl⟩, rfl, finishMant_eq ..⟩
    | true =>
      obtain ⟨n, hn52, htop, habove⟩ := exists_top_bit (isDenormal_iff.1 hd).2.1
      rw [getmantFinite_denormal hd hn52 htop habove]
      refine ⟨_, _, .inr ⟨rfl, rfl, n + 1, n.succ_pos, hn52, ?_, fun m hm hmn => ?_, rfl, rfl⟩, rfl, finishMant_eq ..⟩
      · rwa [show 52 - (n + 1) = 51 - n by omega]
      · simpa [show 51 - (m - 1) = 52 - m by omega] using habove (m - 1) (by omega)

end Sys2Proof.Machine
end

section
/-! What a completed row has written (40_vgetmantpd.md R120, R122, R127, R128), and which changes of state a row does
not see. -/

namespace Sys2Proof.Machine

open Sys2Proof.Safety

/-! ## The values that a read of the source gives (20_memory.md R50, 40_vgetmantpd.md R121) -/

theorem active_iff {s : State} {e : Evex} {i : Nat} : active s e.aaa i = true ↔ LaneActive s e i := by
  simp [active, LaneActive]

/-- A read that completes gives the bytes of memory. -/
theorem memRead_eq_next {s : State} {acc : Access} {seg : Segment} {a : Word} {n : Nat} {bs : List Byte}
    (h : memRead s acc seg a n = .next bs) : bs = (byteAddrs a n).map fun x => readByte s.mem x.toNat := by
  rcases memRead_cases s acc seg a n with ⟨_, _, hm⟩ | ⟨_, _, hm⟩ | ⟨_, _, hm⟩
  · cases hm.symm.trans h
  · cases hm.symm.trans h
  · exact Host.Outcome.next.inj (h.symm.trans hm)

/-- An 8-byte read that completes gives the little-endian element. -/
theorem memReadDouble_eq_next {s : State} {seg : Segment} {a x : Word} (h : memReadDouble s seg a = .next x) :
    x = doubleAt s a := by
  obtain ⟨bs, hread, hx⟩ := andThen_eq_next.1 h
  rw [← Host.Outcome.next.inj hx, memRead_eq_next hread, leNat_byteAddrs, doubleAt]

/-- An element that can be read has its value. -/
theorem sourceElement_eq_next {s : State} {src : Source} {i : Nat} {x : Word}
    (h : sourceElement s src i = .next x) : x = elementValue s src i := by
  cases src with
  | reg r => cases h; rfl
  | mem seg ea => exact memReadDouble_eq_next h
  | bcst seg ea => exact memReadDouble_eq_next h

/-- When the source can be read, each active lane gets its element and an inactive one nothing. -/
theorem readSource_getD {s : State} {src : Source} {vl : VL} {e : Evex} {ts : List (Option Word)}
    (h : readSource s src vl e.aaa = .next ts) {i : Nat} (hi : i < vlElements vl) :
    ts.getD i none = if LaneActive s e i then some (elementValue s src i) else none := by
  obtain ⟨hread, rfl⟩ := readSource_eq_next.1 h
  have hget : ((elementReads s src vl e.aaa).map valueOf).getD i none =
      valueOf (if active s e.aaa i then some (sourceElement s src i) else none) := by
    simp [elementReads, List.getD, hi]
  rw [hget]
  by_cases ha : LaneActive s e i
  · obtain ⟨x, hx⟩ := hread i hi (active_iff.2 ha)
    rw [if_pos (active_iff.2 ha), if_pos ha, hx, ← sourceElement_eq_next hx, valueOf]
  · rw [if_neg (mt active_iff.1 ha), if_neg ha]
    rfl

/-! ## The lanes (R120, R122) -/

section Lanes
variable {s : State} {src : Source} {vl : VL} {e : Evex} {ts : List (Option Word)}

/-- Lane `i` after a read: an active lane is `getmant_fp64` of its element. -/
theorem lane_of_active (h : readSource s src vl e.aaa = .next ts) {i : Nat} (hi : i < vlElements vl)
    (ha : LaneActive s e i) : lane s e i (ts.getD i none) = mantFor s e (elementValue s src i) := by
  rw [readSource_getD h hi, if_pos ha]
  rfl

/-- Lane `i` after a read: an inactive lane is zeroed or kept and signals nothing. -/
theorem lane_of_not_active (h : readSource s src vl e.aaa = .next ts) {i : Nat} (hi : i < vlElements vl)
    (ha : ¬ LaneActive s e i) :
    lane s e i (ts.getD i none) = ⟨if e.z then 0#64 else double (s.vreg e.dest) i, false, false⟩ := by
  rw [readSource_getD h hi, if_neg ha, lane]

/-- An indication that no inactive lane gives is raised exactly when some active lane gives it. -/
theorem lanes_any_iff (h : readSource s src vl e.aaa = .next ts) {p : MantResult → Bool}
    (hp : ∀ w, p ⟨w, false, false⟩ = false) :
    (lanes s e vl ts).any p = true ↔
      ∃ i, i < vlElements vl ∧ LaneActive s e i ∧ p (mantFor s e (elementValue s src i)) = true := by
  simp only [lanes, List.any_map, List.any_eq_true, List.mem_range, Function.comp_apply]
  refine exists_congr fun i => and_congr_right fun hi => ?_
  by_cases ha : LaneActive s e i
  · simp only [lane_of_active h hi ha, ha, true_and]
  · simp only [lane_of_not_active h hi ha, ha, hp, false_and, Bool.false_eq_true]

theorem lanes_any_ie (h : readSource s src vl e.aaa = .next ts) :
    (lanes s e vl ts).any (·.ie) = true ↔ SignalsInvalid vl (elementValue s src) e s :=
  lanes_any_iff h fun _ => rfl

theorem lanes_any_de (h : readSource s src vl e.aaa = .next ts) :
    (lanes s e vl ts).any (·.de) = true ↔ SignalsDenormal vl (elementValue s src) e s :=
  lanes_any_iff h fun _ => rfl

end Lanes

/-! ## The flags (R127) -/

theorem setFlags_bit0 (m : BitVec 32) (ie de : Bool) : (setFlags m ie de).getLsbD 0 = (m.getLsbD 0 || ie) := by
  cases ie <;> cases de <;> simp [setFlags]

theorem setFlags_bit1 (m : BitVec 32) (ie de : Bool) : (setFlags m ie de).getLsbD 1 = (m.getLsbD 1 || de) := by
  cases ie <;> cases de <;> simp [setFlags]

/-- Whatever commits, a flag that is set was set before or is signalled. -/
theorem commitFlags_sets {sae x : Bool} {m m' : BitVec 32} {ie de : Bool} (h : commitFlags sae x m ie de = .next m') :
    (m'.getLsbD 0 = true → m.getLsbD 0 = true ∨ ie = true) ∧
      (m'.getLsbD 1 = true → m.getLsbD 1 = true ∨ de = true) := by
  rcases commitFlags_eq_next.1 h with ⟨_, rfl⟩ | ⟨_, _, rfl⟩
  · exact ⟨.inl, .inl⟩
  · rw [setFlags_bit0, setFlags_bit1, Bool.or_eq_true, Bool.or_eq_true]
    exact ⟨id, id⟩

/-! ## Packed elements and the bits above them (R128) -/

/-- A register shifted past the last of its packed elements is zero. -/
theorem packDoubles_ushiftRight (xs : List Word) {n : Nat} (h : 64 * xs.length ≤ n) :
    packDoubles xs >>> n = 0#512 := by
  refine BitVec.eq_of_getLsbD_eq fun i _ => ?_
  rw [BitVec.getLsbD_ushiftRight, BitVec.getLsbD_zero]
  by_cases hi : n + i < 512
  · rw [getLsbD_packDoubles xs _ hi, List.getD_eq_default _ _ (by omega), BitVec.getLsbD_zero]
  · exact BitVec.getLsbD_of_ge _ _ (by omega)

/-- Two registers with the same elements below `n` agree in their low `64 * n` bits. -/
theorem setWidth_eq_of_double_eq {x y : Zmm} {n : Nat} (h : ∀ k < n, double x k = double y k) :
    x.setWidth (64 * n) = y.setWidth (64 * n) := by
  refine BitVec.eq_of_getLsbD_eq fun i hi => ?_
  have hbit := congrArg (·.getLsbD (i % 64)) (h (i / 64) (by omega))
  simp only [double, BitVec.getLsbD_extractLsb', Nat.mod_lt i (by decide : 0 < 64), decide_true, Bool.true_and,
    Nat.div_add_mod] at hbit
  rw [BitVec.getLsbD_setWidth, BitVec.getLsbD_setWidth, hbit]

theorem vlBits_eq (vl : VL) : vlBits vl = 64 * vlElements vl := by cases vl <;> rfl

theorem vlElements_le (vl : VL) : vlElements vl ≤ 8 := by cases vl <;> decide

/-! ## A completed row -/

section Completed
variable {i : Instr} {s t : State} {v : RowView}

/-- Everything a completed row has done: it passed its checks, read its source, committed its flags and wrote the packed
lanes. -/
theorem exec_eq_next (hv : rowView s i = some v) :
    exec i s = .next t ↔
      Runnable v.vl i.evex s ∧ ∃ ts m, readSource s v.src v.vl i.evex.aaa = .next ts ∧
        commitFlags v.sae s.ctl.osxmmexcpt s.mxcsr ((lanes s i.evex v.vl ts).any (·.ie))
          ((lanes s i.evex v.vl ts).any (·.de)) = .next m ∧
        t = ((s.setVreg i.evex.dest (packDoubles ((lanes s i.evex v.vl ts).map (·.value)))).setMxcsr m).advance
          (instrLength i) := by
  rw [exec_eq_vgetmantpd hv, vgetmantpd_eq_next, execute_eq_next]

/-- The lanes of a completed row are those of R120 and R122. -/
theorem exec_lanesWritten (hv : rowView s i = some v) (h : exec i s = .next t) :
    LanesWritten v.vl (elementValue s v.src) i.evex s t := by
  obtain ⟨_, ts, m, hread, _, rfl⟩ := (exec_eq_next hv).1 h
  intro k hk
  simp only [State.advance_vreg, State.setMxcsr_vreg, State.setVreg_vreg_same,
    double_packDoubles _ _ (hk.trans_le (vlElements_le _)), lanes_getD _ _ _ _ _ hk]
  refine ⟨fun ha => ?_, fun ha hz => ?_, fun ha hz => ?_⟩
  · rw [lane_of_active hread hk ha]
  · rw [lane_of_not_active hread hk ha, hz, if_pos rfl]
  · rw [lane_of_not_active hread hk ha, hz, if_neg Bool.false_ne_true]

/-- Bits `[511:VL]` of the destination of a completed row are zero (R128). -/
theorem exec_upperZero (hv : rowView s i = some v) (h : exec i s = .next t) :
    UpperZero v.vl i.evex.dest t := by
  obtain ⟨_, ts, m, _, _, rfl⟩ := (exec_eq_next hv).1 h
  simp only [UpperZero, State.advance_vreg, State.setMxcsr_vreg, State.setVreg_vreg_same]
  exact packDoubles_ushiftRight _ (by simp [lanes, vlBits_eq])

/-- A flag that a completed row leaves set was set before or is signalled by an active lane (R122, R127). -/
theorem exec_flags (hv : rowView s i = some v) (h : exec i s = .next t) :
    (t.mxcsr.getLsbD 0 = true → s.mxcsr.getLsbD 0 = true ∨ SignalsInvalid v.vl (elementValue s v.src) i.evex s) ∧
      (t.mxcsr.getLsbD 1 = true → s.mxcsr.getLsbD 1 = true ∨ SignalsDenormal v.vl (elementValue s v.src) i.evex s) := by
  obtain ⟨_, ts, m, hread, hcommit, rfl⟩ := (exec_eq_next hv).1 h
  rw [← lanes_any_ie hread, ← lanes_any_de hread]
  exact commitFlags_sets hcommit

end Completed

/-- Settles O32: the packed lanes end at `VL`, and without an active lane under merging each lane keeps its element. -/
theorem upperBitsCleared : Obligations.UpperBitsCleared := by
  intro i s t v hv h
  refine ⟨exec_upperZero hv h, fun hinactive hz => ?_⟩
  rw [vlBits_eq]
  refine setWidth_eq_of_double_eq fun k hk => ?_
  obtain ⟨_, _, hkept⟩ := exec_lanesWritten hv h k hk
  exact hkept (hinactive k hk) hz

/-! ## Changes of state that a row does not see -/

@[simp] theorem mapNext_next (f : State → State) (t : State) : mapNext f (.next t) = .next (f t) := rfl

theorem mapNext_andThen {α : Type} (f : State → State) (r : Result α) (g : α → Result State) :
    mapNext f (andThen r g) = andThen r fun a => mapNext f (g a) := by
  cases r <;> rfl

/-- `f` changes nothing that the checks, the element function or the flags of a row read, and a row's writes leave what
`f` changes alone. What the source operand reads is a separate matter (`vgetmantpd_map`). -/
structure Unseen (f : State → State) (s : State) : Prop where
  ctl : (f s).ctl = s.ctl
  immHi : (f s).plat.immHi = s.plat.immHi
  drawSeed : (f s).plat.drawSeed = s.plat.drawSeed
  mxcsr : (f s).mxcsr = s.mxcsr
  zmm : (f s).zmm = s.zmm
  write : ∀ d x m n, (((f s).setVreg d x).setMxcsr m).advance n = f (((s.setVreg d x).setMxcsr m).advance n)

theorem Unseen.checks_eq {f : State → State} {s : State} (hf : Unseen f s) (vl : VL) (e : Evex) :
    checks vl e (f s) = checks vl e s := by
  simp only [checks, modeCheck, hf.ctl, hf.immHi]

theorem Unseen.lanes_eq {f : State → State} {s : State} (hf : Unseen f s) (e : Evex) (vl : VL)
    (ts : List (Option Word)) : lanes (f s) e vl ts = lanes s e vl ts := by
  simp only [lanes, lane, mantOf, State.vreg, hf.mxcsr, hf.zmm]

/-- Where `f` is not seen and every lane's read is as before, a row does to `f s` what it does to `s`. -/
theorem vgetmantpd_map {f : State → State} {s : State} (hf : Unseen f s) {vl : VL} {sae : Bool} {src : Source}
    {e : Evex} {len : Nat} (hreads : elementReads (f s) src vl e.aaa = elementReads s src vl e.aaa) :
    vgetmantpd vl sae src e len (f s) = mapNext f (vgetmantpd vl sae src e len s) := by
  simp only [vgetmantpd, execute, readSource, hf.checks_eq, hf.lanes_eq, hreads, hf.drawSeed, hf.ctl, hf.mxcsr,
    hf.write, mapNext_andThen, mapNext_next]

/-- The reads of two states are the same where the same lanes are active and the active ones read the same. -/
theorem elementReads_congr {s s' : State} {src : Source} {vl : VL} {e : Evex}
    (hactive : ∀ k, k < vlElements vl → (LaneActive s' e k ↔ LaneActive s e k))
    (helem : ∀ k, k < vlElements vl → LaneActive s e k → sourceElement s' src k = sourceElement s src k) :
    elementReads s' src vl e.aaa = elementReads s src vl e.aaa := by
  refine List.map_congr_left fun k hk => ?_
  have hk := List.mem_range.1 hk
  simp only [active_iff, hactive k hk]
  by_cases ha : LaneActive s e k
  · rw [if_pos ha, if_pos ha, helem k hk ha]
  · rw [if_neg ha, if_neg ha]

/-- As `vgetmantpd_map`, for an instruction whose view `f` leaves alone and whose active elements read as before. -/
theorem exec_map {f : State → State} {i : Instr} {s : State} {v : RowView} (hf : Unseen f s)
    (hv : rowView s i = some v) (hv' : rowView (f s) i = some v)
    (hactive : ∀ k, k < vlElements v.vl → (LaneActive (f s) i.evex k ↔ LaneActive s i.evex k))
    (helem : ∀ k, k < vlElements v.vl → LaneActive s i.evex k → sourceElement (f s) v.src k = sourceElement s v.src k) :
    exec i (f s) = mapNext f (exec i s) := by
  rw [exec_eq_vgetmantpd hv', exec_eq_vgetmantpd hv, vgetmantpd_map hf (elementReads_congr hactive helem)]

/-- The view of a row comes from pc and the general registers alone (30_encoding.md R79): neither memory, map nor mask
is in it. -/
theorem rowView_congr {s s' : State} (hpc : s'.pc = s.pc) (hgpr : s'.gpr = s.gpr) (i : Instr) :
    rowView s' i = rowView s i := by
  have hgreg : s'.greg = s.greg := by funext r; simp only [State.greg, hgpr]
  cases i <;> simp only [rowView, ea00, ea01, ea10, baseFormValue, indexValue, hpc, hgreg]

/-- The state with another memory and memory map. -/
def withMemory (m : Memory) (map : List Region) (s : State) : State :=
  { s with mem := m, plat := { s.plat with map := map } }

/-- The state with other opmask registers. -/
def withMasks (ks : Vector (BitVec 64) 8) (s : State) : State := { s with k := ks }

theorem unseen_withMemory (m : Memory) (map : List Region) (s : State) : Unseen (withMemory m map) s :=
  ⟨rfl, rfl, rfl, rfl, rfl, fun _ _ _ _ => rfl⟩

theorem unseen_withMasks (ks : Vector (BitVec 64) 8) (s : State) : Unseen (withMasks ks) s :=
  ⟨rfl, rfl, rfl, rfl, rfl, fun _ _ _ _ => rfl⟩

theorem sourceElement_withMasks (ks : Vector (BitVec 64) 8) (s : State) (src : Source) (k : Nat) :
    sourceElement (withMasks ks s) src k = sourceElement s src k := by
  cases src <;> rfl

/-- Settles O42: the lanes and flags of a completed row, and the two changes of state that only inactive lanes or mask
bits at KL and above could see. -/
theorem writemaskRule : Obligations.WritemaskRule := by
  intro i s v hv
  refine ⟨fun t h => ⟨exec_lanesWritten hv h, exec_flags hv h⟩, fun m map hsame => ?memory, fun ks hsame => ?masks⟩
  case memory =>
    exact exec_map (unseen_withMemory m map s) hv ((rowView_congr rfl rfl i).trans hv) (fun _ _ => Iff.rfl) hsame
  case masks =>
    refine exec_map (unseen_withMasks ks s) hv ((rowView_congr rfl rfl i).trans hv) (fun k hk => ?_)
      fun k _ _ => sourceElement_withMasks ks s v.src k
    have hbit : ((withMasks ks s).kreg i.evex.aaa).getLsbD k = (s.kreg i.evex.aaa).getLsbD k := hsame k hk
    simp only [LaneActive, hbit]

end Sys2Proof.Machine
end

section
/-! When a row completes (60_exceptions.md R153): its active elements can be read and what they signal is masked. -/

namespace Sys2Proof.Machine

open Sys2Proof.Safety

/-! ## Elements that can be read (20_memory.md R50, 40_vgetmantpd.md R121) -/

/-- A read of eight readable bytes neither faults nor is refused. -/
theorem memReadDouble_of_readable {s : State} {seg : Segment} {a : Word} (h : ReadableDouble s a) :
    memReadDouble s seg a = .next (doubleAt s a) := by
  have hbytes : ∀ x ∈ byteAddrs a 8, ReadableByte s x := byteAddrs_forall.2 h
  have hnofault : memFault s .dataRead seg a 8 = none := memFault_eq_none.2 fun x hx =>
    let ⟨hcanonical, hpermitted, _⟩ := hbytes x hx
    ⟨hcanonical, hpermitted⟩
  rcases memRead_cases s .dataRead seg a 8 with ⟨_, hf, _⟩ | ⟨_, ⟨x, hx, hdevice⟩, _⟩ | ⟨_, _, hread⟩
  · cases hnofault.symm.trans hf
  · obtain ⟨_, _, hordinary⟩ := hbytes x hx
    cases hordinary.symm.trans hdevice
  · rw [memReadDouble, hread, andThen_next, leNat_byteAddrs, doubleAt]

/-- Reading a readable element gives its value. -/
theorem sourceElement_of_readable {s : State} {src : Source} {k : Nat} (h : ElementReadable s src k) :
    sourceElement s src k = .next (elementValue s src k) := by
  cases src with
  | reg r => rfl
  | mem seg ea => exact memReadDouble_of_readable (h (seg, ea + BitVec.ofNat 64 (8 * k)) rfl)
  | bcst seg ea => exact memReadDouble_of_readable (h (seg, ea) rfl)

/-- The source can be read when its active elements can. -/
theorem exists_readSource {s : State} {src : Source} {vl : VL} {e : Evex}
    (h : ∀ k, k < vlElements vl → LaneActive s e k → ElementReadable s src k) :
    ∃ ts, readSource s src vl e.aaa = .next ts :=
  ⟨_, readSource_eq_next.2
    ⟨fun k hk ha => ⟨_, sourceElement_of_readable (h k hk (active_iff.1 ha))⟩, rfl⟩⟩

/-! ## Masked exceptions (R127, R153) -/

/-- Nothing is unmasked when the mask bit of each indication that is raised is set. -/
theorem unmasked_eq_false {m : BitVec 32} {ie de : Bool} :
    unmasked m ie de = false ↔ (ie = true → m.getLsbD 7 = true) ∧ (de = true → m.getLsbD 8 = true) := by
  simp [unmasked, mxcsrIM, mxcsrDM]

/-- The flags of a row can be committed when nothing is unmasked, and under `{sae}` in any case. -/
theorem exists_commitFlags {m : BitVec 32} {ie de : Bool} (h : unmasked m ie de = false) (sae x : Bool) :
    ∃ m', commitFlags sae x m ie de = .next m' := by
  cases sae with
  | true => exact ⟨m, commitFlags_eq_next.2 (.inl ⟨rfl, rfl⟩)⟩
  | false => exact ⟨setFlags m ie de, commitFlags_eq_next.2 (.inr ⟨rfl, h, rfl⟩)⟩

/-- After a read, what the lanes raise is masked exactly when what the active elements signal is. -/
theorem lanes_masked {s : State} {src : Source} {vl : VL} {e : Evex} {ts : List (Option Word)}
    (h : readSource s src vl e.aaa = .next ts) :
    unmasked s.mxcsr ((lanes s e vl ts).any (·.ie)) ((lanes s e vl ts).any (·.de)) = false ↔
      SignalsMasked vl (elementValue s src) e s := by
  rw [unmasked_eq_false, lanes_any_ie h, lanes_any_de h]

section Completes
variable {i : Instr} {s t : State} {v : RowView}

/-- A row that may run completes when its active elements can be read and what they signal is masked. -/
theorem exec_completes (hv : rowView s i = some v) (hrun : Runnable v.vl i.evex s)
    (hreadable : ∀ k, k < vlElements v.vl → LaneActive s i.evex k → ElementReadable s v.src k)
    (hmasked : SignalsMasked v.vl (elementValue s v.src) i.evex s) : ∃ t, exec i s = .next t := by
  obtain ⟨ts, hread⟩ := exists_readSource hreadable
  obtain ⟨m, hcommit⟩ := exists_commitFlags ((lanes_masked hread).2 hmasked) v.sae s.ctl.osxmmexcpt
  exact ⟨_, (exec_eq_next hv).2 ⟨hrun, ts, m, hread, hcommit, rfl⟩⟩

/-- A completed row outside the `{sae}` form sets the flags of what its active lanes signal and clears none (R127). -/
theorem exec_flagsSet (hv : rowView s i = some v) (hsae : v.sae = false) (h : exec i s = .next t) :
    FlagsSet v.vl (elementValue s v.src) i.evex s t := by
  obtain ⟨_, ts, m, hread, hcommit, rfl⟩ := (exec_eq_next hv).1 h
  rcases commitFlags_eq_next.1 hcommit with ⟨hsae', _⟩ | ⟨_, _, rfl⟩
  · cases hsae.symm.trans hsae'
  · simp only [FlagsSet, State.advance_mxcsr, State.setMxcsr_mxcsr, setFlags_bit0, setFlags_bit1, Bool.or_eq_true,
      lanes_any_ie hread, lanes_any_de hread, and_self]

end Completes

/-- Settles O33: the row completes, each active lane is the element's result, and a lane that signals is one of those
that set the flag. -/
theorem maskedResponse : Obligations.MaskedResponse := by
  intro i s v hv hrun hreadable hmasked
  obtain ⟨t, h⟩ := exec_completes hv hrun hreadable hmasked
  refine ⟨t, h, fun k hk ha => ⟨?result, fun hsae hie => ?invalid, fun hsae hde => ?denormal⟩⟩
  case result =>
    obtain ⟨hactive, _, _⟩ := exec_lanesWritten hv h k hk
    exact hactive ha
  case invalid =>
    obtain ⟨hflag, _⟩ := exec_flagsSet hv hsae h
    exact hflag.2 (.inr ⟨k, hk, ha, hie⟩)
  case denormal =>
    obtain ⟨_, hflag⟩ := exec_flagsSet hv hsae h
    exact hflag.2 (.inr ⟨k, hk, ha, hde⟩)

end Sys2Proof.Machine
end

section
/-! Decoding undoes encoding (30_encoding.md sections 1 to 6): what the decoder reads back from each byte that the
encoder writes, then each operand form, then each row. -/

namespace Sys2Proof

/-! ## The fields of the written bytes (R73 to R77) -/

section Fields
open BitVec
variable (e : Evex) (f : RmFields) (ll : BitVec 2) (b : Bool)

theorem mapOk_encodeP0 : mapOk (encodeP0 e f) = true := by
  rw [mapOk, encodeP0, extractLsb'_append_eq_right, beq_self_eq_true]

theorem formOk_encodeP1 : formOk (encodeP1 e) = true := by
  have hfixed : (encodeP1 e).getLsbD 2 = true := getLsbD_append ..
  have hw : (encodeP1 e).getLsbD 7 = true := by rw [encodeP1, getLsbD_append, getLsbD_append]; rfl
  have hpp : (encodeP1 e).extractLsb' 0 2 = 1#2 := extractLsb'_append_eq_of_add_le (by decide)
  rw [formOk, hfixed, hw, hpp]
  rfl

theorem x_encodeP0 : (encodeP0 e f).extractLsb' 6 1 = ~~~ f.x := by
  rw [encodeP0, extractLsb'_append_eq_of_le (by decide), extractLsb'_append_eq_of_le (by decide),
    extractLsb'_append_eq_of_le (by decide), extractLsb'_append_eq_right]

theorem b_encodeP0 : (encodeP0 e f).extractLsb' 5 1 = ~~~ f.b := by
  rw [encodeP0, extractLsb'_append_eq_of_le (by decide), extractLsb'_append_eq_of_le (by decide),
    extractLsb'_append_eq_right]

theorem mod_encodeModRM : (encodeModRM e f).extractLsb' 6 2 = f.mod := by
  rw [encodeModRM, extractLsb'_append_eq_of_le (by decide), extractLsb'_append_eq_left]

theorem rm_encodeModRM : (encodeModRM e f).extractLsb' 0 3 = f.rm := by
  rw [encodeModRM, extractLsb'_append_eq_right]

theorem ll_encodeP2 : (encodeP2 e ll b).extractLsb' 5 2 = ll := by
  rw [encodeP2, extractLsb'_append_eq_of_le (by decide), extractLsb'_append_eq_of_le (by decide),
    extractLsb'_append_eq_of_le (by decide), extractLsb'_append_eq_right]

theorem b_encodeP2 : (encodeP2 e ll b).getLsbD 4 = b := by
  rw [encodeP2, getLsbD_append, getLsbD_append, getLsbD_append]
  cases b <;> rfl

theorem destOf_encode : destOf (encodeP0 e f) (encodeModRM e f) = e.dest := by
  have hR' : (encodeP0 e f).extractLsb' 4 1 = ~~~ e.dest.extractLsb' 4 1 := by
    rw [encodeP0, extractLsb'_append_eq_of_le (by decide), extractLsb'_append_eq_right]
  have hR : (encodeP0 e f).extractLsb' 7 1 = ~~~ e.dest.extractLsb' 3 1 := by
    rw [encodeP0, extractLsb'_append_eq_of_le (by decide), extractLsb'_append_eq_of_le (by decide),
      extractLsb'_append_eq_of_le (by decide), extractLsb'_append_eq_left]
  have hreg : (encodeModRM e f).extractLsb' 3 3 = e.dest.extractLsb' 0 3 := by
    rw [encodeModRM, extractLsb'_append_eq_of_le (by decide), extractLsb'_append_eq_right]
  rw [destOf, hR', hR, hreg, BitVec.not_not, BitVec.not_not,
    extractLsb'_append_extractLsb'_eq_extractLsb' (by decide : 4 = 3 + 1)]
  exact extractLsb'_append_extractLsb'

theorem evexOf_encode :
    evexOf (encodeP0 e f) (encodeP1 e) (encodeP2 e ll b) (encodeModRM e f) e.imm8 = e := by
  have haaa : (encodeP2 e ll b).extractLsb' 0 3 = e.aaa := by rw [encodeP2, extractLsb'_append_eq_right]
  have hz : (encodeP2 e ll b).getLsbD 7 = e.z := by
    rw [encodeP2, getLsbD_append, getLsbD_append, getLsbD_append, getLsbD_append]
    cases e.z <;> rfl
  have hvvvv : (encodeP1 e).extractLsb' 3 4 = e.vvvv := by
    rw [encodeP1, extractLsb'_append_eq_of_le (by decide), extractLsb'_append_eq_right]
  have hvp : (encodeP2 e ll b).getLsbD 3 = e.vp := by
    rw [encodeP2, getLsbD_append, getLsbD_append]
    cases e.vp <;> rfl
  rw [evexOf, destOf_encode, haaa, hz, hvvvv, hvp]

end Fields

/-! ## The operand forms (R71, R78 to R81) -/

section Operands
open BitVec

theorem srcOf_encode (e : Evex) (src : VReg) :
    srcOf (encodeP0 e (rmOfReg src)) (encodeModRM e (rmOfReg src)) = src := by
  rw [srcOf, x_encodeP0, b_encodeP0, rm_encodeModRM, BitVec.not_not, BitVec.not_not]
  simp only [rmOfReg]
  rw [extractLsb'_append_extractLsb'_eq_extractLsb' (by decide : 4 = 3 + 1)]
  exact extractLsb'_append_extractLsb'

theorem takeDisp32_disp32Bytes (d : BitVec 32) (bs : List Byte) :
    takeDisp32 (disp32Bytes d ++ bs) = some (d, bs) := by
  have hd : d.extractLsb' 24 8 ++ d.extractLsb' 16 8 ++ d.extractLsb' 8 8 ++ d.extractLsb' 0 8 = d := by
    rw [extractLsb'_append_extractLsb'_eq_extractLsb' (by decide : 24 = 16 + 8),
      extractLsb'_append_extractLsb'_eq_extractLsb' (by decide : 16 = 8 + 8)]
    exact extractLsb'_append_extractLsb'
  simp only [disp32Bytes, List.cons_append, List.nil_append, takeDisp32, hd]

/-- The bit B and the three low bits give the base register back. -/
theorem baseOf_encodeP0 (e : Evex) {f : RmFields} {b : GReg} (hb : f.b = b.extractLsb' 3 1) :
    baseOf (encodeP0 e f) (lowBits b) = b := by
  rw [baseOf, b_encodeP0, BitVec.not_not, hb, lowBits]
  exact extractLsb'_append_extractLsb'

theorem base_sibByte (low : BitVec 3) (x : Option Index) : (sibByte low x).extractLsb' 0 3 = low := by
  cases x <;> exact extractLsb'_append_eq_right

/-- The bit X and the SIB byte give the index back; an absent one is stored as number 0100 (R79). -/
theorem indexOf_encodeP0 (e : Evex) {f : RmFields} {low : BitVec 3} {x : Option Index} (hwf : indexWf x = true)
    (hx : f.x = indexHigh x) : indexOf (encodeP0 e f) (sibByte low x) = x := by
  cases x with
  | none =>
    have hnumber : indexNumber (encodeP0 e f) (sibByte low none) = 4#4 := by
      rw [indexNumber, x_encodeP0, hx, sibByte, extractLsb'_append_eq_of_le (by decide), extractLsb'_append_eq_right]
      rfl
    rw [indexOf, if_pos hnumber]
  | some x =>
    have hnumber : indexNumber (encodeP0 e f) (sibByte low (some x)) = x.reg := by
      rw [indexNumber, x_encodeP0, hx, sibByte, extractLsb'_append_eq_of_le (by decide), extractLsb'_append_eq_right, indexHigh,
        BitVec.not_not]
      exact extractLsb'_append_extractLsb'
    have hscale : (sibByte low (some x)).extractLsb' 6 2 = x.scale := by
      rw [sibByte, extractLsb'_append_eq_of_le (by decide), extractLsb'_append_eq_left]
    have hreg : x.reg ≠ 4#4 := by simpa [indexWf, Index.wf] using hwf
    rw [indexOf, hnumber, if_neg hreg, hscale]

/-- A base form is read back, and the displacement after it is left. -/
theorem takeBaseForm_encode (e : Evex) {form : BaseForm} (hwf : form.wf = true) (mod : BitVec 2)
    (disp bs : List Byte) :
    takeBaseForm (encodeP0 e (rmOfBase mod disp form)) (encodeModRM e (rmOfBase mod disp form))
      ((rmOfBase mod disp form).tail ++ bs) = some (form, disp ++ bs) := by
  unfold takeBaseForm
  rw [rm_encodeModRM]
  cases form with
  | reg b =>
    have hlow : lowBits b ≠ 4#3 := by simpa [BaseForm.wf] using hwf
    simp only [rmOfBase, hlow, if_false, baseOf_encodeP0]
  | sib b x =>
    simp only [rmOfBase, if_true, List.cons_append, base_sibByte, baseOf_encodeP0,
      indexOf_encodeP0 e hwf]

theorem takeAddr01_encode (e : Evex) {a : Addr01} (hwf : a.wf = true) (bs : List Byte) :
    takeAddr01 (encodeP0 e (rmOf01 a)) (encodeModRM e (rmOf01 a)) ((rmOf01 a).tail ++ bs) = some (a, bs) := by
  rw [takeAddr01, rmOf01, takeBaseForm_encode e hwf]
  rfl

theorem takeAddr10_encode (e : Evex) {a : Addr10} (hwf : a.wf = true) (bs : List Byte) :
    takeAddr10 (encodeP0 e (rmOf10 a)) (encodeModRM e (rmOf10 a)) ((rmOf10 a).tail ++ bs) = some (a, bs) := by
  rw [takeAddr10, rmOf10, takeBaseForm_encode e hwf, Option.bind_some, takeDisp32_disp32Bytes]
  rfl

theorem takeAddr00_encode (e : Evex) {a : Addr00} (hwf : a.wf = true) (bs : List Byte) :
    takeAddr00 (encodeP0 e (rmOf00 a)) (encodeModRM e (rmOf00 a)) ((rmOf00 a).tail ++ bs) = some (a, bs) := by
  unfold takeAddr00
  rw [rm_encodeModRM]
  rcases a with (b | ⟨b, x⟩) | d | ⟨x, d⟩
  case plain.reg =>
    obtain ⟨hnosib, hnodisp⟩ : lowBits b ≠ 4#3 ∧ lowBits b ≠ 5#3 := by simpa [Addr00.wf, BaseForm.wf00] using hwf
    simp only [rmOf00, rmOfBase, hnosib, hnodisp, if_false, baseOf_encodeP0, List.nil_append]
  case plain.sib =>
    obtain ⟨hbase, hindex⟩ : lowBits b ≠ 5#3 ∧ indexWf x = true := by simpa [Addr00.wf, BaseForm.wf00] using hwf
    simp only [rmOf00, rmOfBase, if_true, List.cons_append, List.nil_append, base_sibByte, hbase, if_false,
      baseOf_encodeP0, indexOf_encodeP0 e hindex]
  case rip =>
    simp only [rmOf00, if_neg (by decide : (5#3 : BitVec 3) ≠ 4#3), if_true, takeDisp32_disp32Bytes, Option.map_some]
  case noBase =>
    simp only [rmOf00, if_true, List.cons_append, base_sibByte, takeDisp32_disp32Bytes, Option.map_some,
      indexOf_encodeP0 e hwf]

end Operands

/-! ## The rows (R86, R97) -/

/-- Decoding an encoding comes down to reading its operands and immediate back. -/
theorem decode_encodeWith {e : Evex} {ll : BitVec 2} {b : Bool} {f : RmFields} {i : Instr} {rest : List Byte}
    (h : decodeOperands (encodeP0 e f) (encodeP1 e) (encodeP2 e ll b) (encodeModRM e f) (f.tail ++ e.imm8 :: rest) =
      some (i, rest)) : decode (encodeWith e ll b f ++ rest) = .ok i rest := by
  have happend : encodeWith e ll b f ++ rest = 0x62#8 :: encodeP0 e f :: encodeP1 e :: encodeP2 e ll b :: 0x26#8 ::
      encodeModRM e f :: (f.tail ++ e.imm8 :: rest) := by simp [encodeWith]
  rw [happend]
  exact decode_payload_eq_ok.2 ⟨mapOk_encodeP0 e f, formOk_encodeP1 e, _, _, rfl, h⟩

section Rows
variable (e : Evex) (ll : BitVec 2) (b : Bool) (rest : List Byte)

theorem decode_encode_reg (src : VReg) :
    decode (encodeWith e ll b (rmOfReg src) ++ rest) = .ok (regInstr b (lengthOf ll) e src) rest := by
  refine decode_encodeWith ?_
  have hmod : (rmOfReg src).mod = 3#2 := rfl
  have htail : (rmOfReg src).tail = [] := rfl
  simp only [decodeOperands, mod_encodeModRM, hmod, if_true, htail, List.nil_append, takeByte, Option.map_some,
    evexOf_encode, srcOf_encode, b_encodeP2, ll_encodeP2]

/-- The `mod` field of a memory operand is the one its displacement size asks for. -/
theorem mod_rmOfBase (mod : BitVec 2) (disp : List Byte) (form : BaseForm) : (rmOfBase mod disp form).mod = mod := by
  cases form <;> rfl

theorem mod_rmOf00 (a : Addr00) : (rmOf00 a).mod = 0#2 := by
  cases a with
  | plain form => exact mod_rmOfBase ..
  | rip d => rfl
  | noBase x d => rfl

theorem decode_encode_mem00 {a : Addr00} (hwf : a.wf = true) :
    decode (encodeWith e ll b (rmOf00 a) ++ rest) = .ok (mem00Instr b (lengthOf ll) e a) rest := by
  refine decode_encodeWith ?_
  simp only [decodeOperands, mod_encodeModRM, mod_rmOf00, takeAddr00_encode e hwf, b_encodeP2, ll_encodeP2, takeByte,
    Option.bind_some, Option.map_some, evexOf_encode]
  rfl

theorem decode_encode_mem01 {a : Addr01} (hwf : a.wf = true) :
    decode (encodeWith e ll b (rmOf01 a) ++ rest) = .ok (mem01Instr b (lengthOf ll) e a) rest := by
  refine decode_encodeWith ?_
  have hmod : (rmOf01 a).mod = 1#2 := mod_rmOfBase ..
  simp only [decodeOperands, mod_encodeModRM, hmod, takeAddr01_encode e hwf, b_encodeP2, ll_encodeP2, takeByte,
    Option.bind_some, Option.map_some, evexOf_encode]
  rfl

theorem decode_encode_mem10 {a : Addr10} (hwf : a.wf = true) :
    decode (encodeWith e ll b (rmOf10 a) ++ rest) = .ok (mem10Instr b (lengthOf ll) e a) rest := by
  refine decode_encodeWith ?_
  have hmod : (rmOf10 a).mod = 2#2 := mod_rmOfBase ..
  simp only [decodeOperands, mod_encodeModRM, hmod, takeAddr10_encode e hwf, b_encodeP2, ll_encodeP2, takeByte,
    Option.bind_some, Option.map_some, evexOf_encode]
  rfl

end Rows

/-- Settles O1: each row is its source form's case at the row's own `L'L` and `b`. -/
theorem decodeOfEncode : Obligations.DecodeOfEncode := by
  intro i rest hwf
  cases i with
  | xmmReg e r | ymmReg e r | zmmReg e r | zmmSae e r | udReg e r => exact decode_encode_reg ..
  | xmmMem00 e a | xmmBcst00 e a | ymmMem00 e a | ymmBcst00 e a | zmmMem00 e a | zmmBcst00 e a =>
    exact decode_encode_mem00 e _ _ rest hwf
  | xmmMem01 e a | xmmBcst01 e a | ymmMem01 e a | ymmBcst01 e a | zmmMem01 e a | zmmBcst01 e a =>
    exact decode_encode_mem01 e _ _ rest hwf
  | xmmMem10 e a | xmmBcst10 e a | ymmMem10 e a | ymmBcst10 e a | zmmMem10 e a | zmmBcst10 e a =>
    exact decode_encode_mem10 e _ _ rest hwf
  | udMem00 e b a => cases b <;> exact decode_encode_mem00 e _ _ rest hwf
  | udMem01 e b a => cases b <;> exact decode_encode_mem01 e _ _ rest hwf
  | udMem10 e b a => cases b <;> exact decode_encode_mem10 e _ _ rest hwf

end Sys2Proof
end

section
/-! How many bytes decoding reads (30_encoding.md sections 1 and 7): each part of the decoder reads a value off the front
of the bytes, takes exactly that value's own bytes, and finds one whenever enough bytes stand there. -/

namespace Sys2Proof

open Sys2Proof.Safety

/-! ## Readers -/

/-- `take`, run after the first `off` bytes of an instruction, reads values that are `good`, each off exactly the rest
of its `size`, whatever stands behind; at most `bound` bytes are read, and `bound` bytes always hold a value. -/
structure Reads {α : Type} (off : Nat) (take : List Byte → Option (α × List Byte)) (size : α → Nat) (good : α → Prop)
    (bound : Nat) : Prop where
  reads : ∀ {bs rest : List Byte} {a : α}, take bs = some (a, rest) → good a ∧ size a ≤ off + bound ∧
    ∃ own, bs = own ++ rest ∧ size a = off + own.length ∧ ∀ more, take (own ++ more) = some (a, more)
  total : ∀ bs : List Byte, bound ≤ bs.length → ∃ a rest, take bs = some (a, rest)

namespace Reads
variable {α β γ : Type} {off n n' : Nat} {take : List Byte → Option (α × List Byte)} {size : α → Nat} {good : α → Prop}

theorem mono (h : Reads off take size good n) (hn : n ≤ n') : Reads off take size good n' where
  reads hbs := by
    obtain ⟨hgood, hsize, hown⟩ := h.reads hbs
    exact ⟨hgood, by omega, hown⟩
  total bs hbs := h.total bs (by omega)

/-- Reading nothing. -/
theorem nothing {a : α} (hgood : good a) (hsize : size a = off) : Reads off (fun bs => some (a, bs)) size good n where
  reads hbs := by
    cases hbs
    exact ⟨hgood, by omega, [], rfl, hsize, fun _ => rfl⟩
  total bs _ := ⟨a, bs, rfl⟩

/-- Reading one byte, which decides how to go on. -/
theorem byte {next : Byte → List Byte → Option (α × List Byte)} (hnil : take [] = none)
    (hcons : ∀ b bs, take (b :: bs) = next b bs) (h : ∀ b, Reads (off + 1) (next b) size good n) :
    Reads off take size good (n + 1) where
  reads {bs rest a} hbs := by
    cases bs with
    | nil => simp [hnil] at hbs
    | cons b bs =>
      obtain ⟨hgood, hle, own, rfl, hsize, hmore⟩ := (h b).reads ((hcons b bs).symm.trans hbs)
      refine ⟨hgood, by omega, b :: own, rfl, by simp [hsize]; omega, fun more => ?_⟩
      rw [List.cons_append, hcons, hmore]
  total bs hbs := by
    cases bs with
    | nil => simp at hbs
    | cons b bs =>
      rw [hcons]
      exact (h b).total bs (by simpa using hbs)

variable {take₁ : List Byte → Option (α × List Byte)} {size₁ : α → Nat} {good₁ : α → Prop}
  {take₂ : List Byte → Option (β × List Byte)} {size₂ : β → Nat} {good₂ : β → Prop} {size₃ : γ → Nat} {good₃ : γ → Prop}

theorem map {g : α → γ} (h : Reads 0 take₁ size₁ good₁ n)
    (hg : ∀ a, good₁ a → good₃ (g a) ∧ size₃ (g a) = off + size₁ a) :
    Reads off (fun bs => (take₁ bs).map fun x => (g x.1, x.2)) size₃ good₃ n where
  reads hbs := by
    obtain ⟨⟨a, rest⟩, hfst, heq⟩ := Option.map_eq_some_iff.1 hbs
    obtain ⟨rfl, rfl⟩ := Prod.mk.inj heq
    obtain ⟨hgood, hle, own, rfl, hsize, hmore⟩ := h.reads hfst
    obtain ⟨hgood', hsize'⟩ := hg a hgood
    refine ⟨hgood', ?_, own, rfl, ?_, fun more => by rw [hmore]; rfl⟩ <;> dsimp only <;> omega
  total bs hbs := by
    obtain ⟨a, rest, hfst⟩ := h.total bs hbs
    exact ⟨g a, rest, by rw [hfst]; rfl⟩

/-- One reader after another. -/
theorem seq {g : α → β → γ} (h₁ : Reads 0 take₁ size₁ good₁ n) (h₂ : Reads 0 take₂ size₂ good₂ n')
    (hg : ∀ a b, good₁ a → good₂ b → good₃ (g a b) ∧ size₃ (g a b) = off + (size₁ a + size₂ b)) :
    Reads off (fun bs => (take₁ bs).bind fun x => (take₂ x.2).map fun y => (g x.1 y.1, y.2)) size₃ good₃ (n + n') where
  reads hbs := by
    obtain ⟨⟨a, mid⟩, hfst, hbs⟩ := Option.bind_eq_some_iff.1 hbs
    obtain ⟨⟨b, rest⟩, hsnd, heq⟩ := Option.map_eq_some_iff.1 hbs
    obtain ⟨rfl, rfl⟩ := Prod.mk.inj heq
    obtain ⟨hgood₁, hle₁, own₁, rfl, hsize₁, hmore₁⟩ := h₁.reads hfst
    obtain ⟨hgood₂, hle₂, own₂, rfl, hsize₂, hmore₂⟩ := h₂.reads hsnd
    obtain ⟨hgood, hsize⟩ := hg a b hgood₁ hgood₂
    refine ⟨hgood, by dsimp only; omega, own₁ ++ own₂, (List.append_assoc ..).symm, by simp; omega, fun more => ?_⟩
    rw [List.append_assoc, hmore₁, Option.bind_some, hmore₂]
    rfl
  total bs hbs := by
    obtain ⟨a, mid, hfst⟩ := h₁.total bs (by omega)
    obtain ⟨_, hle, own, rfl, hsize, _⟩ := h₁.reads hfst
    obtain ⟨b, rest, hsnd⟩ := h₂.total mid (by simp at hbs; omega)
    exact ⟨g a b, rest, by rw [hfst, Option.bind_some, hsnd]; rfl⟩

end Reads

/-! ## The parts of the decoder -/

theorem takeByte_reads : Reads 0 takeByte (fun _ => 1) (fun _ => True) 1 :=
  .byte rfl (fun _ _ => rfl) fun _ => .nothing trivial rfl

theorem takeDisp32_reads : Reads 0 takeDisp32 (fun _ => 4) (fun _ => True) 4 where
  reads {bs rest d} h := by
    rcases bs with _ | ⟨b0, _ | ⟨b1, _ | ⟨b2, _ | ⟨b3, bs⟩⟩⟩⟩ <;> cases h
    exact ⟨trivial, le_rfl, [b0, b1, b2, b3], rfl, rfl, fun _ => rfl⟩
  total bs h := by
    rcases bs with _ | ⟨b0, _ | ⟨b1, _ | ⟨b2, _ | ⟨b3, bs⟩⟩⟩⟩
    case cons.cons.cons.cons => exact ⟨_, _, rfl⟩
    all_goals simp at h

/-- The index of a SIB byte is well formed: number 0100 is read as absent (R79). -/
theorem indexWf_indexOf (p0 sib : Byte) : indexWf (indexOf p0 sib) = true := by
  unfold indexOf
  split
  · rfl
  · simpa [indexWf, Index.wf]

theorem lowBits_baseOf (p0 : Byte) (low : BitVec 3) : lowBits (baseOf p0 low) = low :=
  BitVec.extractLsb'_append_eq_right

theorem takeBaseForm_reads (p0 modrm : Byte) :
    Reads 0 (takeBaseForm p0 modrm) baseFormSize (·.wf = true) 1 := by
  by_cases hrm : modrm.extractLsb' 0 3 = 4#3
  · refine .byte (next := fun sib bs => some (.sib (baseOf p0 (sib.extractLsb' 0 3)) (indexOf p0 sib), bs))
      (by simp [takeBaseForm, hrm]) (fun _ _ => by simp [takeBaseForm, hrm]) fun sib => ?_
    exact .nothing (indexWf_indexOf p0 sib) rfl
  · unfold takeBaseForm
    simp only [hrm, if_false]
    exact .nothing (by simpa [BaseForm.wf, lowBits_baseOf]) rfl

theorem takeAddr00_reads (p0 modrm : Byte) : Reads 0 (takeAddr00 p0 modrm) addr00Size (·.wf = true) 5 := by
  by_cases hrm : modrm.extractLsb' 0 3 = 4#3
  · refine .byte (next := fun sib bs =>
      if sib.extractLsb' 0 3 = 5#3 then (takeDisp32 bs).map fun d => (.noBase (indexOf p0 sib) d.1, d.2)
      else some (.plain (.sib (baseOf p0 (sib.extractLsb' 0 3)) (indexOf p0 sib)), bs))
      (by simp [takeAddr00, hrm]) (fun _ _ => by simp [takeAddr00, hrm]) fun sib => ?_
    split_ifs with hbase
    · exact takeDisp32_reads.map fun d _ => ⟨indexWf_indexOf p0 sib, rfl⟩
    · refine .nothing ?_ rfl
      simpa [Addr00.wf, BaseForm.wf00, lowBits_baseOf, indexWf_indexOf]
  · unfold takeAddr00
    simp only [hrm, if_false]
    split_ifs with hdisp
    · exact .mono (takeDisp32_reads.map fun d _ => ⟨rfl, rfl⟩) (Nat.le_succ 4)
    · refine .nothing ?_ rfl
      simpa [Addr00.wf, BaseForm.wf00, lowBits_baseOf] using ⟨hrm, hdisp⟩

theorem takeAddr01_reads (p0 modrm : Byte) : Reads 0 (takeAddr01 p0 modrm) addr01Size (·.wf = true) 2 :=
  (takeBaseForm_reads p0 modrm).seq takeByte_reads fun _ _ hwf _ => ⟨hwf, (Nat.zero_add _).symm⟩

theorem takeAddr10_reads (p0 modrm : Byte) : Reads 0 (takeAddr10 p0 modrm) addr10Size (·.wf = true) 5 :=
  (takeBaseForm_reads p0 modrm).seq takeDisp32_reads fun _ _ hwf _ => ⟨hwf, (Nat.zero_add _).symm⟩

/-! ## The rows that the operands select -/

section Rows
variable (b : Bool) (ll : Option VL) (e : Evex)

theorem wf_regInstr (r : VReg) : (regInstr b ll e r).wf = true := by
  cases b with
  | true => rfl
  | false => rcases ll with _ | _ | _ | _ <;> rfl

theorem wf_mem00Instr (a : Addr00) : (mem00Instr b ll e a).wf = a.wf := by
  cases b <;> rcases ll with _ | _ | _ | _ <;> rfl

theorem wf_mem01Instr (a : Addr01) : (mem01Instr b ll e a).wf = a.wf := by
  cases b <;> rcases ll with _ | _ | _ | _ <;> rfl

theorem wf_mem10Instr (a : Addr10) : (mem10Instr b ll e a).wf = a.wf := by
  cases b <;> rcases ll with _ | _ | _ | _ <;> rfl

theorem instrLength_regInstr (r : VReg) : instrLength (regInstr b ll e r) = 7 := by
  cases b with
  | true => rfl
  | false => rcases ll with _ | _ | _ | _ <;> rfl

theorem instrLength_mem00Instr (a : Addr00) : instrLength (mem00Instr b ll e a) = 7 + addr00Size a := by
  cases b <;> rcases ll with _ | _ | _ | _ <;> rfl

theorem instrLength_mem01Instr (a : Addr01) : instrLength (mem01Instr b ll e a) = 7 + addr01Size a := by
  cases b <;> rcases ll with _ | _ | _ | _ <;> rfl

theorem instrLength_mem10Instr (a : Addr10) : instrLength (mem10Instr b ll e a) = 7 + addr10Size a := by
  cases b <;> rcases ll with _ | _ | _ | _ <;> rfl

end Rows

/-- ModRM stands at offset 5, so the operands are read after 6 bytes, and at most 6 more follow (R71). -/
theorem decodeOperands_reads (p0 p1 p2 modrm : Byte) :
    Reads 6 (decodeOperands p0 p1 p2 modrm) instrLength (·.wf = true) 6 := by
  unfold decodeOperands
  generalize p2.getLsbD 4 = b, lengthOf (p2.extractLsb' 5 2) = ll
  split_ifs
  case pos =>
    refine .mono (n := 1) (takeByte_reads.map (g := fun m => regInstr b ll (evexOf p0 p1 p2 modrm m) (srcOf p0 modrm))
      fun m _ => ?_) (by decide)
    exact ⟨wf_regInstr .., instrLength_regInstr ..⟩
  case pos =>
    refine (takeAddr00_reads p0 modrm).seq (g := fun a m => mem00Instr b ll (evexOf p0 p1 p2 modrm m) a) takeByte_reads
      fun a m hwf _ => ?_
    exact ⟨(wf_mem00Instr ..).trans hwf, by rw [instrLength_mem00Instr]; omega⟩
  case pos =>
    refine .mono (n := 3) ((takeAddr01_reads p0 modrm).seq
      (g := fun a m => mem01Instr b ll (evexOf p0 p1 p2 modrm m) a) takeByte_reads fun a m hwf _ => ?_) (by decide)
    exact ⟨(wf_mem01Instr ..).trans hwf, by rw [instrLength_mem01Instr]; omega⟩
  case neg =>
    refine (takeAddr10_reads p0 modrm).seq (g := fun a m => mem10Instr b ll (evexOf p0 p1 p2 modrm m) a) takeByte_reads
      fun a m hwf _ => ?_
    exact ⟨(wf_mem10Instr ..).trans hwf, by rw [instrLength_mem10Instr]; omega⟩

/-! ## The row of decoded operands (R95 steps 6 and 7, R97) -/

/-- The rows that the operands can select, by `mod`: the row's operand is the one read after ModRM. -/
inductive OperandRow (p0 p1 p2 modrm : Byte) (bs : List Byte) : Instr → Prop where
  | reg (hmod : modrm.extractLsb' 6 2 = 3#2) (imm8 : Byte) : OperandRow p0 p1 p2 modrm bs
      (regInstr (p2.getLsbD 4) (lengthOf (p2.extractLsb' 5 2)) (evexOf p0 p1 p2 modrm imm8) (srcOf p0 modrm))
  | mem00 (hmod : modrm.extractLsb' 6 2 = 0#2) {a : Addr00} {rest : List Byte}
      (haddr : takeAddr00 p0 modrm bs = some (a, rest)) (imm8 : Byte) : OperandRow p0 p1 p2 modrm bs
      (mem00Instr (p2.getLsbD 4) (lengthOf (p2.extractLsb' 5 2)) (evexOf p0 p1 p2 modrm imm8) a)
  | mem01 (hmod : modrm.extractLsb' 6 2 = 1#2) {a : Addr01} {rest : List Byte}
      (haddr : takeAddr01 p0 modrm bs = some (a, rest)) (imm8 : Byte) : OperandRow p0 p1 p2 modrm bs
      (mem01Instr (p2.getLsbD 4) (lengthOf (p2.extractLsb' 5 2)) (evexOf p0 p1 p2 modrm imm8) a)
  | mem10 (hmod : modrm.extractLsb' 6 2 = 2#2) {a : Addr10} {rest : List Byte}
      (haddr : takeAddr10 p0 modrm bs = some (a, rest)) (imm8 : Byte) : OperandRow p0 p1 p2 modrm bs
      (mem10Instr (p2.getLsbD 4) (lengthOf (p2.extractLsb' 5 2)) (evexOf p0 p1 p2 modrm imm8) a)

theorem mod_eq_two {x : BitVec 2} (h3 : x ≠ 3#2) (h0 : x ≠ 0#2) (h1 : x ≠ 1#2) : x = 2#2 := by
  revert x
  decide

theorem operandRow_of_decodeOperands {p0 p1 p2 modrm : Byte} {bs rest : List Byte} {i : Instr}
    (h : decodeOperands p0 p1 p2 modrm bs = some (i, rest)) : OperandRow p0 p1 p2 modrm bs i := by
  unfold decodeOperands at h
  split_ifs at h with h3 h0 h1
  · obtain ⟨m, -, heq⟩ := Option.map_eq_some_iff.1 h
    cases heq
    exact .reg h3 m.1
  all_goals
    obtain ⟨a, haddr, h⟩ := Option.bind_eq_some_iff.1 h
    obtain ⟨m, -, heq⟩ := Option.map_eq_some_iff.1 h
    cases heq
  · exact .mem00 h0 haddr m.1
  · exact .mem01 h1 haddr m.1
  · exact .mem10 (mod_eq_two h3 h0 h1) haddr m.1

/-- The row of an instruction that was decoded is the one that its ModRM byte selects. -/
theorem operandRow_of_decode {p0 p1 p2 modrm : Byte} {bs rest : List Byte} {i : Instr}
    (h : decode (0x62#8 :: p0 :: p1 :: p2 :: 0x26#8 :: modrm :: bs) = .ok i rest) :
    OperandRow p0 p1 p2 modrm bs i := by
  obtain ⟨_, _, modrm', bs', heq, hops⟩ := decode_payload_eq_ok.1 h
  obtain ⟨-, rfl, rfl⟩ := List.cons.inj heq
  exact operandRow_of_decodeOperands hops

/-! ## The decoder -/

theorem payload_ok_iff {p0 p1 : Byte} : mapOk p0 = true ∧ formOk p1 = true ↔ PayloadInScope p0 p1 := by
  simp only [mapOk, formOk, Bool.and_eq_true, beq_iff_eq]
  tauto

/-- What decoding can do, when it answers an instruction (R95). -/
theorem decode_eq_ok {bs rest : List Byte} {i : Instr} :
    decode bs = .ok i rest ↔ ∃ p0 p1 p2 modrm tail, bs = 0x62#8 :: p0 :: p1 :: p2 :: 0x26#8 :: modrm :: tail ∧
      PayloadInScope p0 p1 ∧ decodeOperands p0 p1 p2 modrm tail = some (i, rest) := by
  constructor
  · intro h
    rcases bs with _ | ⟨b0, bs⟩
    · simp [decode] at h
    obtain rfl : b0 = 0x62#8 := by
      by_contra hb
      simp [decode, hb] at h
    rcases bs with _ | ⟨p0, _ | ⟨p1, _ | ⟨p2, bs⟩⟩⟩
    case cons.cons.cons =>
      obtain ⟨hmap, hform, modrm, tail, rfl, hops⟩ := decode_payload_eq_ok.1 h
      exact ⟨p0, p1, p2, modrm, tail, rfl, payload_ok_iff.1 ⟨hmap, hform⟩, hops⟩
    all_goals simp [decode, decodePayload] at h
  · rintro ⟨p0, p1, p2, modrm, tail, rfl, hscope, hops⟩
    obtain ⟨hmap, hform⟩ := payload_ok_iff.2 hscope
    exact decode_payload_eq_ok.2 ⟨hmap, hform, modrm, tail, rfl, hops⟩

/-- A decoded instruction is well formed, the bytes begin with its own bytes, and those decode to it whatever follows. -/
theorem own_bytes_of_decode {bs rest : List Byte} {i : Instr} (h : decode bs = .ok i rest) :
    i.wf = true ∧ instrLength i ≤ 12 ∧ ∃ own, bs = own ++ rest ∧ own.length = instrLength i ∧
      ∀ more, decode (own ++ more) = .ok i more := by
  obtain ⟨p0, p1, p2, modrm, tail, rfl, hscope, hops⟩ := decode_eq_ok.1 h
  obtain ⟨hwf, hle, own, rfl, hlength, hmore⟩ := (decodeOperands_reads p0 p1 p2 modrm).reads hops
  refine ⟨hwf, hle, 0x62#8 :: p0 :: p1 :: p2 :: 0x26#8 :: modrm :: own, rfl, by simp; omega, fun more => ?_⟩
  exact decode_eq_ok.2 ⟨p0, p1, p2, modrm, own ++ more, rfl, hscope, hmore more⟩

/-- Bytes that decode still do when more bytes follow. -/
theorem decode_append {bs rest : List Byte} {i : Instr} (h : decode bs = .ok i rest) (more : List Byte) :
    decode (bs ++ more) = .ok i (rest ++ more) := by
  obtain ⟨_, _, own, rfl, _, hmore⟩ := own_bytes_of_decode h
  rw [List.append_assoc, hmore]

/-- Settles O2: the instruction's own bytes stand in front of the rest. -/
theorem decodedIsWellFormed : Obligations.DecodedIsWellFormed := by
  intro bs rest i h
  obtain ⟨hwf, _, own, rfl, hlength, _⟩ := own_bytes_of_decode h
  refine ⟨hwf, by rw [List.length_append, hlength], ?_⟩
  rw [← hlength, List.drop_left]

/-- Settles O3: what is left of the bytes are the instruction's own. -/
theorem decodeReadsOwnBytesOnly : Obligations.DecodeReadsOwnBytesOnly := by
  intro bs rest more i h
  obtain ⟨_, _, own, rfl, hlength, hmore⟩ := own_bytes_of_decode h
  rw [← hlength, List.take_left, hmore]

/-- All bytes in scope decode once the six bytes after ModRM stand there. -/
theorem exists_decode {p0 p1 p2 modrm : Byte} {tail : List Byte} (hscope : PayloadInScope p0 p1)
    (htail : 6 ≤ tail.length) :
    ∃ i rest, decode (0x62#8 :: p0 :: p1 :: p2 :: 0x26#8 :: modrm :: tail) = .ok i rest := by
  obtain ⟨i, rest, hops⟩ := (decodeOperands_reads p0 p1 p2 modrm).total tail htail
  exact ⟨i, rest, decode_eq_ok.2 ⟨p0, p1, p2, modrm, tail, rfl, hscope, hops⟩⟩

/-! ## Bytes that are rejected (R95 steps 1, 3, 4, 5) -/

theorem decode_first_byte {b0 : Byte} (h : b0 ≠ 0x62#8) (bs : List Byte) :
    decode (b0 :: bs) = .rejected .notEvex := by
  rw [decode, if_neg h]

theorem decode_payload {p0 p1 : Byte} (h : ¬ PayloadInScope p0 p1) (p2 : Byte) (bs : List Byte) :
    ∃ why, decode (0x62#8 :: p0 :: p1 :: p2 :: bs) = .rejected why := by
  rw [← payload_ok_iff] at h
  cases hmap : mapOk p0 with
  | false => exact ⟨.otherMap, by simp [decode, decodePayload, hmap]⟩
  | true =>
    have hform : formOk p1 = false := by simpa [hmap] using h
    exact ⟨.otherForm, by simp [decode, decodePayload, hmap, hform]⟩

theorem decode_opcode {p0 p1 op : Byte} (hscope : PayloadInScope p0 p1) (hop : op ≠ 0x26#8) (p2 : Byte)
    (bs : List Byte) : decode (0x62#8 :: p0 :: p1 :: p2 :: op :: bs) = .rejected .otherOpcode := by
  obtain ⟨hmap, hform⟩ := payload_ok_iff.2 hscope
  simp [decode, decodePayload, decodeOpcode, hmap, hform, hop]

/-- Settles O4: each of the first five bytes rejects or lets decoding go on, and seven more then hold the operands. -/
theorem twelveBytesDecide : Obligations.TwelveBytesDecide := by
  intro bs hlength
  obtain ⟨b0, p0, p1, p2, op, modrm, tail, rfl⟩ :
      ∃ b0 p0 p1 p2 op modrm tail, bs = b0 :: p0 :: p1 :: p2 :: op :: modrm :: tail := by
    match bs, hlength with
    | b0 :: p0 :: p1 :: p2 :: op :: modrm :: tail, _ => exact ⟨b0, p0, p1, p2, op, modrm, tail, rfl⟩
  by_cases hb0 : b0 = 0x62#8
  · subst hb0
    by_cases hscope : PayloadInScope p0 p1
    · by_cases hop : op = 0x26#8
      · subst hop
        obtain ⟨i, rest, h⟩ := exists_decode (p2 := p2) (modrm := modrm) (tail := tail) hscope (by simpa using hlength)
        simp [h]
      · simp [decode_opcode hscope hop]
    · obtain ⟨why, h⟩ := decode_payload hscope p2 (op :: modrm :: tail)
      simp [h]
  · simp [decode_first_byte hb0]

/-! ## The length table (R71) -/

theorem baseFormSize_of_takeBaseForm {p0 modrm : Byte} {bs rest : List Byte} {f : BaseForm}
    (h : takeBaseForm p0 modrm bs = some (f, rest)) :
    baseFormSize f = if modrm.extractLsb' 0 3 = 4#3 then 1 else 0 := by
  unfold takeBaseForm at h
  split_ifs at h ⊢ with hrm
  · cases bs with
    | nil => cases h
    | cons sib bs => cases h; rfl
  · cases h; rfl

theorem addr00Size_of_takeAddr00 {p0 modrm sib : Byte} {bs rest : List Byte} {a : Addr00}
    (h : takeAddr00 p0 modrm (sib :: bs) = some (a, rest)) :
    addr00Size a = if modrm.extractLsb' 0 3 = 4#3 then (if sib.extractLsb' 0 3 = 5#3 then 5 else 1)
      else if modrm.extractLsb' 0 3 = 5#3 then 4 else 0 := by
  simp only [takeAddr00] at h
  split_ifs at h ⊢ with hrm hbase hdisp
  · obtain ⟨d, -, h⟩ := Option.map_eq_some_iff.1 h
    cases h
    rfl
  · cases h
    rfl
  · obtain ⟨d, -, h⟩ := Option.map_eq_some_iff.1 h
    cases h
    rfl
  · cases h
    rfl

theorem addr01Size_of_takeAddr01 {p0 modrm : Byte} {bs rest : List Byte} {a : Addr01}
    (h : takeAddr01 p0 modrm bs = some (a, rest)) :
    addr01Size a = (if modrm.extractLsb' 0 3 = 4#3 then 1 else 0) + 1 := by
  obtain ⟨⟨f, mid⟩, hform, h⟩ := Option.bind_eq_some_iff.1 h
  obtain ⟨d, -, h⟩ := Option.map_eq_some_iff.1 h
  cases h
  rw [addr01Size, baseFormSize_of_takeBaseForm hform]

theorem addr10Size_of_takeAddr10 {p0 modrm : Byte} {bs rest : List Byte} {a : Addr10}
    (h : takeAddr10 p0 modrm bs = some (a, rest)) :
    addr10Size a = (if modrm.extractLsb' 0 3 = 4#3 then 1 else 0) + 4 := by
  obtain ⟨⟨f, mid⟩, hform, h⟩ := Option.bind_eq_some_iff.1 h
  obtain ⟨d, -, h⟩ := Option.map_eq_some_iff.1 h
  cases h
  rw [addr10Size, baseFormSize_of_takeBaseForm hform]

/-- Settles O5: the size of the operand that `mod` selects, and seven bytes around it. -/
theorem lengthFromModRM : Obligations.LengthFromModRM := by
  intro p0 p1 p2 modrm sib bs rest i h
  cases operandRow_of_decode h with
  | reg hmod imm8 => rw [instrLength_regInstr, if_pos hmod]
  | mem00 hmod haddr imm8 =>
    rw [instrLength_mem00Instr, addr00Size_of_takeAddr00 haddr]
    simp only [hmod, BitVec.reduceEq, ↓reduceIte]
    split_ifs <;> rfl
  | mem01 hmod haddr imm8 =>
    rw [instrLength_mem01Instr, addr01Size_of_takeAddr01 haddr]
    simp only [hmod, BitVec.reduceEq, ↓reduceIte]
    split_ifs <;> rfl
  | mem10 hmod haddr imm8 =>
    rw [instrLength_mem10Instr, addr10Size_of_takeAddr10 haddr]
    simp only [hmod, BitVec.reduceEq, ↓reduceIte]
    split_ifs <;> rfl

/-! ## Written words -/

/-- Settles O6: six runs of the decoder. -/
theorem writtenWordsDecode : Obligations.WrittenWordsDecode := by
  unfold Obligations.WrittenWordsDecode
  decide

end Sys2Proof
end

section
/-! From bytes to addresses (30_encoding.md sections 3 and 4): what base, index, segment and displacement of a decoded
memory operand are in the bytes it was decoded from. -/

namespace Sys2Proof.Machine

open Sys2Proof.Safety

/-! ## Base, index and segment from the bytes (R78, R79) -/

theorem not_extractLsb'_one (x : Byte) (i : Nat) : ~~~ x.extractLsb' i 1 = BitVec.ofBool (!x.getLsbD i) := by
  refine BitVec.eq_of_getLsbD_eq fun j hj => ?_
  obtain rfl : j = 0 := by omega
  simp

theorem baseOf_eq (p0 : Byte) (low : BitVec 3) : baseOf p0 low = BitVec.ofBool (!p0.getLsbD 5) ++ low := by
  rw [baseOf, not_extractLsb'_one]

theorem greg_baseOf (s : State) (p0 : Byte) (low : BitVec 3) : s.greg (baseOf p0 low) = byteBase s p0 low := by
  rw [baseOf_eq, byteBase]

/-- A base register number is 4 or 5 when its high bit is 0 and its low bits say so. -/
theorem ofBool_append_eq {b : Bool} {low : BitVec 3} :
    (BitVec.ofBool b ++ low = 4#4 ↔ b = false ∧ low = 4#3) ∧ (BitVec.ofBool b ++ low = 5#4 ↔ b = false ∧ low = 5#3) := by
  revert b low
  decide

theorem baseSegment_baseOf (p0 : Byte) (low : BitVec 3) : baseSegment (baseOf p0 low) = byteSegment p0 low := by
  simp only [baseSegment, byteSegment, baseOf_eq, ofBool_append_eq, Bool.not_eq_false', ← and_or_left]

theorem ofNat_two_pow (w n : Nat) : BitVec.ofNat w (2 ^ n) = BitVec.twoPow w n :=
  BitVec.eq_of_toNat_eq (by rw [BitVec.toNat_ofNat, BitVec.toNat_twoPow])

theorem indexValue_indexOf (s : State) (p0 sib : Byte) : indexValue s (indexOf p0 sib) = byteIndex s p0 sib := by
  have hnumber : indexNumber p0 sib = BitVec.ofBool (!p0.getLsbD 6) ++ sib.extractLsb' 3 3 := by
    rw [indexNumber, not_extractLsb'_one]
  simp only [indexOf, byteIndex, hnumber, ofBool_append_eq, Bool.not_eq_false']
  split_ifs
  · rfl
  · rw [indexValue, ofNat_two_pow, ← BitVec.shiftLeft_eq_mul_twoPow]

/-! ## The element addresses of a memory row (40_vgetmantpd.md R121) -/

section Rows
variable {s : State} {v : RowView} {b : Bool} {ll : Option VL} {e : Evex}

theorem elementAddr_mem00 {a : Addr00} (hv : rowView s (mem00Instr b ll e a) = some v) (k : Nat) :
    elementAddr v.src k =
      some (segment00 a, ea00 s (len00 a) a + BitVec.ofNat 64 (if b then 0 else 8 * k)) := by
  cases b <;> rcases ll with _ | _ | _ | _ <;> cases hv <;> simp [elementAddr]

theorem elementAddr_mem01 {a : Addr01} (hv : rowView s (mem01Instr b ll e a) = some v) (k : Nat) :
    elementAddr v.src k =
      some (formSegment a.form,
        ea01 s (if b then 8 else vlBits v.vl / 8) a + BitVec.ofNat 64 (if b then 0 else 8 * k)) := by
  cases b <;> rcases ll with _ | _ | _ | _ <;> cases hv <;> simp [elementAddr, vlBits]

theorem elementAddr_mem10 {a : Addr10} (hv : rowView s (mem10Instr b ll e a) = some v) (k : Nat) :
    elementAddr v.src k =
      some (formSegment a.form, ea10 s a + BitVec.ofNat 64 (if b then 0 else 8 * k)) := by
  cases b <;> rcases ll with _ | _ | _ | _ <;> cases hv <;> simp [elementAddr]

end Rows

/-! ## The element addresses of decoded bytes, by `mod` -/

section Decoded
variable {p0 p1 p2 modrm : Byte} {bs rest : List Byte} {s : State} {i : Instr} {v : RowView}

theorem elementAddr_of_mod00 (hmod : modrm.extractLsb' 6 2 = 0#2)
    (hdec : decode (0x62#8 :: p0 :: p1 :: p2 :: 0x26#8 :: modrm :: bs) = .ok i rest) (hv : rowView s i = some v) :
    ∃ a mid, takeAddr00 p0 modrm bs = some (a, mid) ∧
      ∀ k, elementAddr v.src k = some (segment00 a, ea00 s (len00 a) a + byteOffset p2 k) := by
  cases operandRow_of_decode hdec with
  | mem00 _ haddr imm8 => exact ⟨_, _, haddr, elementAddr_mem00 hv⟩
  | reg hmod' | mem01 hmod' | mem10 hmod' => exact absurd (hmod.symm.trans hmod') (by decide)

theorem elementAddr_of_mod01 (hmod : modrm.extractLsb' 6 2 = 1#2)
    (hdec : decode (0x62#8 :: p0 :: p1 :: p2 :: 0x26#8 :: modrm :: bs) = .ok i rest) (hv : rowView s i = some v) :
    ∃ a mid, takeAddr01 p0 modrm bs = some (a, mid) ∧
      ∀ k, elementAddr v.src k =
        some (formSegment a.form, ea01 s (if p2.getLsbD 4 then 8 else vlBits v.vl / 8) a + byteOffset p2 k) := by
  cases operandRow_of_decode hdec with
  | mem01 _ haddr imm8 => exact ⟨_, _, haddr, elementAddr_mem01 hv⟩
  | reg hmod' | mem00 hmod' | mem10 hmod' => exact absurd (hmod.symm.trans hmod') (by decide)

theorem elementAddr_of_mod10 (hmod : modrm.extractLsb' 6 2 = 2#2)
    (hdec : decode (0x62#8 :: p0 :: p1 :: p2 :: 0x26#8 :: modrm :: bs) = .ok i rest) (hv : rowView s i = some v) :
    ∃ a mid, takeAddr10 p0 modrm bs = some (a, mid) ∧
      ∀ k, elementAddr v.src k = some (formSegment a.form, ea10 s a + byteOffset p2 k) := by
  cases operandRow_of_decode hdec with
  | mem10 _ haddr imm8 => exact ⟨_, _, haddr, elementAddr_mem10 hv⟩
  | reg hmod' | mem00 hmod' | mem01 hmod' => exact absurd (hmod.symm.trans hmod') (by decide)

end Decoded

/-! ## The forms of a memory operand -/

/-- Settles O7: `takeAddr01` without a SIB byte is a base register and the displacement byte. -/
theorem disp8AddressIsScaled : Obligations.Disp8AddressIsScaled := by
  intro p0 p1 p2 modrm d8 imm s i v hmod hrm hdec hv k _
  obtain ⟨a, mid, ha, haddr⟩ := elementAddr_of_mod01 hmod hdec hv
  simp only [takeAddr01, takeBaseForm, hrm, if_false] at ha
  cases ha
  simp only [haddr, formSegment, baseSegment_baseOf, byteSegment, hrm, false_or, ea01, baseFormValue, greg_baseOf,
    byteBase, byteOffset]

/-- Settles O8: the next instruction is 11 bytes on. -/
theorem ripRelativeAddress : Obligations.RipRelativeAddress := by
  intro p0 p1 p2 modrm b0 b1 b2 b3 imm s i v hmod hrm hdec hv k _
  obtain ⟨a, mid, ha, haddr⟩ := elementAddr_of_mod00 hmod hdec hv
  simp only [takeAddr00, hrm] at ha
  cases ha
  simp only [haddr, segment00, ea00, len00, addr00Size, byteOffset]

/-- Settles O9: `takeAddr10` with a SIB byte. -/
theorem sibAddress : Obligations.SibAddress := by
  intro p0 p1 p2 modrm sib b0 b1 b2 b3 imm s i v hmod hrm hdec hv k _
  obtain ⟨a, mid, ha, haddr⟩ := elementAddr_of_mod10 hmod hdec hv
  simp only [takeAddr10, takeBaseForm, hrm, if_true] at ha
  cases ha
  simp only [haddr, formSegment, baseSegment_baseOf, ea10, baseFormValue, greg_baseOf, indexValue_indexOf]

/-- Settles O56: `takeAddr01` with a SIB byte. -/
theorem sibDisp8Address : Obligations.SibDisp8Address := by
  intro p0 p1 p2 modrm sib d8 imm s i v hmod hrm hdec hv k _
  obtain ⟨a, mid, ha, haddr⟩ := elementAddr_of_mod01 hmod hdec hv
  simp only [takeAddr01, takeBaseForm, hrm, if_true] at ha
  cases ha
  simp only [haddr, formSegment, baseSegment_baseOf, ea01, baseFormValue, greg_baseOf, indexValue_indexOf]

/-- Settles O57: `takeAddr00` with a SIB byte, by the base field. -/
theorem sibMod00Address : Obligations.SibMod00Address := by
  intro p0 p1 p2 modrm sib s i v hmod hrm hv
  refine ⟨fun imm hbase hdec k _ => ?base, fun b0 b1 b2 b3 imm hbase hdec k _ => ?noBase⟩
  all_goals
    obtain ⟨a, mid, ha, haddr⟩ := elementAddr_of_mod00 hmod hdec hv
    simp only [takeAddr00, hrm, hbase, if_true, if_false] at ha
    cases ha
  case base =>
    simp only [haddr, segment00, formSegment, baseSegment_baseOf, ea00, baseFormValue, greg_baseOf, indexValue_indexOf]
  case noBase => simp only [haddr, segment00, ea00, indexValue_indexOf]

/-- Settles O58: without a SIB byte the base register is `B ++ rm`, by `mod`. -/
theorem baseAddress : Obligations.BaseAddress := by
  intro p0 p1 p2 modrm s i v hrm hv
  refine ⟨fun imm hmod hrm' hdec k _ => ?mod00, fun b0 b1 b2 b3 imm hmod hdec k _ => ?mod10⟩
  case mod00 =>
    obtain ⟨a, mid, ha, haddr⟩ := elementAddr_of_mod00 hmod hdec hv
    simp only [takeAddr00, hrm, hrm', if_false] at ha
    cases ha
    simp only [haddr, segment00, formSegment, baseSegment_baseOf, byteSegment, hrm, hrm', or_self, and_false, if_false,
      ea00, baseFormValue, greg_baseOf]
  case mod10 =>
    obtain ⟨a, mid, ha, haddr⟩ := elementAddr_of_mod10 hmod hdec hv
    simp only [takeAddr10, takeBaseForm, hrm, if_false] at ha
    cases ha
    simp only [haddr, formSegment, baseSegment_baseOf, ea10, baseFormValue, greg_baseOf]

end Sys2Proof.Machine
end

section
/-! Fetching at pc (30_encoding.md section 7, 60_exceptions.md R159): the bytes that can be fetched come first, and the
first byte that cannot be is where the fetch stops. -/

namespace Sys2Proof.Machine

open Sys2Proof.Safety

/-! ## Fetching bytes (20_memory.md R51, R56) -/

theorem byteAddrs_one (a : Word) : byteAddrs a 1 = [a] := by simp [byteAddrs]

/-- Fetching one byte: `#GP(0)`, then `#PF`, then the refusal of a device region, then the byte. -/
theorem fetchByte_eq (s : State) (a : Word) :
    memRead s .fetch .data a 1 =
      if canonical s.plat.vaBits a = true then
        if permitted s.plat.map .fetch a = true then
          if inDevice s.plat.map a = true then .refused .deviceMemory else .next [readByte s.mem a.toNat]
        else .fault .pageFault
      else .fault .generalProtection := by
  unfold memRead memFault
  simp only [byteAddrs_one, List.any_cons, List.any_nil, Bool.or_false, List.map_cons, List.map_nil]
  cases canonical s.plat.vaBits a with
  | false => rfl
  | true =>
    cases permitted s.plat.map .fetch a with
    | false => rfl
    | true => cases inDevice s.plat.map a <;> rfl

theorem fetchByte_of_fetchable {s : State} {a : Word} (h : FetchableByte s a) :
    memRead s .fetch .data a 1 = .next [readByte s.mem a.toNat] := by
  obtain ⟨hcanonical, hpermitted, hordinary⟩ := h
  simp [fetchByte_eq, hcanonical, hpermitted, hordinary]

theorem add_one_add_ofNat (a : Word) (j : Nat) : a + 1#64 + BitVec.ofNat 64 j = a + BitVec.ofNat 64 (j + 1) := by
  rw [BitVec.add_assoc, ← BitVec.ofNat_add, Nat.add_comm]

theorem bytesAt_cons {s : State} {a : Word} {b : Byte} {bs : List Byte} (h : BytesAt s a (b :: bs)) :
    FetchableByte s a ∧ readByte s.mem a.toNat = b ∧ BytesAt s (a + 1#64) bs := by
  obtain ⟨hfetch, hread⟩ := h 0 (Nat.succ_pos _)
  rw [BitVec.add_zero] at hfetch hread
  refine ⟨hfetch, hread, fun j hj => ?_⟩
  have hnext := h (j + 1) (Nat.succ_lt_succ hj)
  simpa only [add_one_add_ofNat, List.getElem_cons_succ] using hnext

/-- The fetch reads the bytes that stand at an address and goes on behind them. -/
theorem fetchBytes_append {s : State} {a : Word} {bs : List Byte} (h : BytesAt s a bs) (n : Nat) :
    fetchBytes s (bs.length + n) a =
      (bs ++ (fetchBytes s n (a + BitVec.ofNat 64 bs.length)).1, (fetchBytes s n (a + BitVec.ofNat 64 bs.length)).2) := by
  induction bs generalizing a with
  | nil => simp
  | cons b bs ih =>
    obtain ⟨hfetch, hread, hrest⟩ := bytesAt_cons h
    rw [List.length_cons, Nat.add_right_comm, fetchBytes, fetchByte_of_fetchable hfetch, hread]
    simp only [ih hrest, add_one_add_ofNat, List.cons_append, List.nil_append]

/-! ## The step -/

/-- What a step does that has fetched bytes standing at pc. -/
theorem fetchInstr_of_bytesAt {s : State} {bs : List Byte} (hm : s.ctl.mode ≠ .bits32) (hbytes : BytesAt s s.pc bs)
    {n : Nat} (hn : bs.length + n = 12) :
    fetchInstr s = decodeFetched
      (bs ++ (fetchBytes s n (s.pc + BitVec.ofNat 64 bs.length)).1, (fetchBytes s n (s.pc + BitVec.ofNat 64 bs.length)).2) := by
  rw [← fetchBytes_append hbytes, hn]
  unfold fetchInstr
  cases hmode : s.ctl.mode with
  | bits32 => exact absurd hmode hm
  | bits64 => rfl
  | realAddress => rfl

/-- Bytes at pc that decode with nothing left are the instruction of the step (R95). -/
theorem step_of_bytesAt {s : State} {bs : List Byte} {i : Instr} (hm : s.ctl.mode ≠ .bits32)
    (hbytes : BytesAt s s.pc bs) (hdec : decode bs = .ok i []) : step s = exec i s := by
  obtain ⟨_, hle, own, hown, hlength, _⟩ := own_bytes_of_decode hdec
  rw [List.append_nil] at hown
  obtain ⟨n, hn⟩ := Nat.exists_eq_add_of_le (hown ▸ hlength ▸ hle : bs.length ≤ 12)
  rw [step, fetchInstr_of_bytesAt hm hbytes hn.symm, decodeFetched, decode_append hdec, andThen_next]

/-- Bytes at pc that are rejected whatever follows are refused (R96). -/
theorem step_of_rejected {s : State} {bs : List Byte} (hm : s.ctl.mode ≠ .bits32) (hbytes : BytesAt s s.pc bs)
    (hlength : bs.length ≤ 12) (hdec : ∀ more, ∃ why, decode (bs ++ more) = .rejected why) :
    step s = .refused .notInScope := by
  obtain ⟨n, hn⟩ := Nat.exists_eq_add_of_le hlength
  rw [step, fetchInstr_of_bytesAt hm hbytes hn.symm, decodeFetched]
  obtain ⟨why, hwhy⟩ := hdec (fetchBytes s n (s.pc + BitVec.ofNat 64 bs.length)).1
  rw [hwhy, refuse_eq, andThen_refused]

/-- Bytes at pc that do not decide leave the step to what fetching the byte behind them does. -/
theorem step_of_truncated {s : State} {bs : List Byte} {stop : Result Unit} (hm : s.ctl.mode ≠ .bits32)
    (hbytes : BytesAt s s.pc bs) (hdec : decode bs = .truncated)
    (hstop : ∀ n, fetchBytes s (n + 1) (s.pc + BitVec.ofNat 64 bs.length) = ([], stop)) :
    step s = andThen stop fun _ => .refused .notInScope := by
  have hlength : bs.length < 12 := not_le.1 fun h => twelveBytesDecide bs h hdec
  obtain ⟨n, hn⟩ := Nat.exists_eq_add_of_lt hlength
  rw [step, fetchInstr_of_bytesAt hm hbytes (n := n + 1) (by omega), hstop, List.append_nil, decodeFetched, hdec]
  cases stop <;> rfl

/-- Settles O10: the bytes decode to the same instruction whatever is fetched behind them. -/
theorem stepRunsDecoded : Obligations.StepRunsDecoded := fun _ _ _ => step_of_bytesAt

/-- Settles O11: which bytes decode, and the step's refusal at the first byte that shows the others. -/
theorem otherBytesRefused : Obligations.OtherBytesRefused := by
  refine ⟨fun bs rest i hdec => ?only, fun p0 p1 p2 tail hscope htail => ?all, fun s hm => ⟨?first, ?payload, ?opcode⟩⟩
  case only =>
    obtain ⟨p0, p1, p2, modrm, tail, rfl, hscope, _⟩ := decode_eq_ok.1 hdec
    exact ⟨p0, p1, p2, modrm :: tail, rfl, hscope⟩
  case all =>
    obtain ⟨modrm, tail, rfl⟩ := List.exists_cons_of_length_pos (by omega : 0 < tail.length)
    exact exists_decode hscope (by simpa using htail)
  case first =>
    exact fun b0 hbytes hb0 => step_of_rejected hm hbytes (by simp) fun more => ⟨_, decode_first_byte hb0 more⟩
  case payload =>
    exact fun p0 p1 p2 hbytes hscope => step_of_rejected hm hbytes (by simp) fun more => decode_payload hscope p2 more
  case opcode =>
    exact fun p0 p1 p2 op hbytes hscope hop =>
      step_of_rejected hm hbytes (by simp) fun more => ⟨_, decode_opcode hscope hop p2 more⟩

/-- Settles O12: the byte behind the fetched ones is needed, and fetching it stops. -/
theorem fetchFaultComesFirst : Obligations.FetchFaultComesFirst := by
  intro s bs hm hbytes hdec
  refine ⟨fun hcanonical => ?_, fun hcanonical hpermitted => ?_, fun hcanonical hpermitted hdevice => ?_⟩
  · exact step_of_truncated (stop := .fault .generalProtection) hm hbytes hdec fun n => by
      simp [fetchBytes, fetchByte_eq, hcanonical]
  · exact step_of_truncated (stop := .fault .pageFault) hm hbytes hdec fun n => by
      simp [fetchBytes, fetchByte_eq, hcanonical, hpermitted]
  · exact step_of_truncated (stop := .refused .deviceMemory) hm hbytes hdec fun n => by
      simp [fetchBytes, fetchByte_eq, hcanonical, hpermitted, hdevice]

/-! ## Modes in which no instruction executes (10_state.md R31, R35; 60_exceptions.md R164) -/

theorem andThen_assoc {α β γ : Type} (r : Result α) (f : α → Result β) (g : β → Result γ) :
    andThen (andThen r f) g = andThen r fun a => andThen (f a) g := by
  cases r <;> rfl

/-- Every row checks the mode first. -/
theorem exec_eq_modeCheck_andThen (i : Instr) (s : State) : ∃ f, exec i s = andThen (modeCheck s) f := by
  cases hv : rowView s i with
  | none => exact ⟨_, exec_of_rowView_none hv⟩
  | some v =>
    rw [exec_eq_vgetmantpd hv, vgetmantpd, checks]
    exact ⟨_, andThen_assoc ..⟩

theorem exec_realAddress {s : State} (hm : s.ctl.mode = .realAddress) (i : Instr) :
    exec i s = .fault .invalidOpcode := by
  obtain ⟨f, hf⟩ := exec_eq_modeCheck_andThen i s
  rw [hf, modeCheck, hm, raise_eq, andThen_fault]

theorem exec_bits32 {s : State} (hm : s.ctl.mode = .bits32) (i : Instr) : exec i s = .refused .notMode64 := by
  obtain ⟨f, hf⟩ := exec_eq_modeCheck_andThen i s
  rw [hf, modeCheck, hm, refuse_eq, andThen_refused]

/-- Settles O13: the fetch and every row's mode check refuse. -/
theorem mode32IsRefused : Obligations.Mode32IsRefused := by
  refine fun s hm => ⟨?_, exec_bits32 hm⟩
  rw [step, fetchInstr, hm, refuse_eq, andThen_refused]

/-! ## The reset state (10_state.md R35) -/

/-- Settles O14: the table of `State.reset`; the vector, opmask and general registers are each a constant file. -/
theorem resetValues : Obligations.ResetValues := by
  refine ⟨fun r => ?_, fun r => ?_, rfl, by decide, fun r => ?_, rfl, rfl, rfl, rfl, rfl, rfl, rfl⟩
  · exact Vector.getElem_replicate ..
  · exact Vector.getElem_replicate ..
  · exact Vector.getElem_replicate ..

theorem toNat_add_one {a : Word} (h : a.toNat + 1 < 2 ^ 64) : (a + 1#64).toNat = a.toNat + 1 := by
  bv_omega

/-- Storing bytes that do not wrap leaves what stands below them. -/
theorem readByte_placeBytes_below {m : Memory} {a : Word} {bs : List Byte} (hwrap : a.toNat + bs.length < 2 ^ 64)
    {x : Nat} (hx : x < a.toNat) : readByte (placeBytes m a bs) x = readByte m x := by
  induction bs generalizing m a with
  | nil => rfl
  | cons b bs ih =>
    rw [List.length_cons] at hwrap
    have hnext := toNat_add_one (a := a) (by omega)
    rw [placeBytes, ih (by omega) (by omega), readByte_writeByte_other m b (by omega)]

/-- Stored bytes that do not wrap are read back. -/
theorem readByte_placeBytes {m : Memory} (hm : Memory.wf m = true) {a : Word} {bs : List Byte}
    (hwrap : a.toNat + bs.length < 2 ^ 64) {j : Nat} (hj : j < bs.length) :
    readByte (placeBytes m a bs) (a + BitVec.ofNat 64 j).toNat = bs[j] := by
  induction bs generalizing m a j with
  | nil => simp at hj
  | cons b bs ih =>
    rw [List.length_cons] at hwrap
    have hnext := toNat_add_one (a := a) (by omega)
    cases j with
    | zero =>
      rw [BitVec.add_zero, placeBytes, readByte_placeBytes_below (by omega) (by omega), readByte_writeByte_same hm]
      rfl
    | succ j =>
      have hread := ih (a := a + 1#64) (writeByte_wf hm a.isLt b) (by omega) (Nat.lt_of_succ_lt_succ hj)
      rwa [add_one_add_ofNat] at hread

/-- From the reset pc on, twelve bytes can be fetched: they are canonical and in the one ordinary region (log 9). -/
theorem fetchable_reset : ∀ j < 12, FetchableByte State.reset (State.reset.pc + BitVec.ofNat 64 j) := by
  decide

/-- Settles O15: the encoding can be fetched at the reset pc, it decodes, and the mode check of the row raises `#UD`. -/
theorem resetStateRaisesUd : Obligations.ResetStateRaisesUd := by
  intro i hwf
  have hdec : decode (encode i) = .ok i [] := by simpa using decodeOfEncode i [] hwf
  obtain ⟨_, hle, own, hown, hlength, _⟩ := own_bytes_of_decode hdec
  rw [List.append_nil] at hown
  rw [← hlength, ← hown] at hle
  have hwrap : State.reset.pc.toNat + (encode i).length < 2 ^ 64 := by
    have hpc : State.reset.pc.toNat = 0xFFFFFFF0 := rfl
    omega
  refine (step_of_bytesAt (bs := encode i) Mode.noConfusion (fun j hj => ⟨?_, ?_⟩) hdec).trans (exec_realAddress rfl i)
  · exact fetchable_reset j (by omega)
  · exact readByte_placeBytes rfl hwrap hj

end Sys2Proof.Machine
end

section
/-! What a step may change (10_state.md sections 5 and 12), and what a run may. -/

namespace Sys2Proof.Machine

open Sys2Proof.Safety

/-! ## MXCSR: the flags are only set (R26, R27) -/

/-- Committing the flags leaves MXCSR alone or sets flags in it. -/
theorem commitFlags_value {sae x : Bool} {m m' : BitVec 32} {ie de : Bool} (h : commitFlags sae x m ie de = .next m') :
    ∃ ie' de', m' = setFlags m ie' de' := by
  rcases commitFlags_eq_next.1 h with ⟨_, rfl⟩ | ⟨_, _, rfl⟩
  · exact ⟨false, false, by simp [setFlags]⟩
  · exact ⟨ie, de, rfl⟩

theorem setFlags_eq_or (m : BitVec 32) (ie de : Bool) :
    setFlags m ie de = m ||| ((if ie then 1#32 else 0#32) ||| (if de then 2#32 else 0#32)) := BitVec.or_assoc ..

theorem and_setFlags (m : BitVec 32) (ie de : Bool) : m &&& setFlags m ie de = m := by
  rw [setFlags_eq_or]
  ext i
  rw [BitVec.getElem_and, BitVec.getElem_or]
  cases m[i] <;> rfl

/-- No bit but IE and DE is touched. -/
theorem setFlags_other (m : BitVec 32) (ie de : Bool) : setFlags m ie de &&& ~~~ 3#32 = m &&& ~~~ 3#32 := by
  have hflags : ((if ie then 1#32 else 0#32) ||| (if de then 2#32 else 0#32)) &&& ~~~ 3#32 = 0#32 := by
    revert ie de
    decide
  rw [setFlags_eq_or, BitVec.and_or_distrib_right, hflags, BitVec.or_zero]

/-- The reserved bits are among those that no flag touches. -/
theorem mxcsrReserved_congr {m m' : BitVec 32} (h : m' &&& ~~~ 3#32 = m &&& ~~~ 3#32) :
    mxcsrReserved m' = mxcsrReserved m := by
  have hkept : ∀ m : BitVec 32, mxcsrReserved m = (m &&& ~~~ 3#32).extractLsb' 16 16 := fun m => by
    rw [BitVec.extractLsb'_and, mxcsrReserved]
    exact (BitVec.and_allOnes).symm
  rw [hkept m', h, ← hkept]

/-! ## One instruction, one step -/

/-- Everything that any completed instruction may do: write its destination, set flags, advance by its length. -/
theorem exec_next_shape {i : Instr} {s t : State} (h : exec i s = .next t) :
    ∃ x ie de, t = ((s.setVreg i.evex.dest x).setMxcsr (setFlags s.mxcsr ie de)).advance (instrLength i) := by
  cases hv : rowView s i with
  | none =>
    rw [exec_of_rowView_none hv] at h
    obtain ⟨_, _, hud⟩ := andThen_eq_next.1 h
    cases hud
  | some v =>
    obtain ⟨_, ts, m, _, hcommit, rfl⟩ := (exec_eq_next hv).1 h
    obtain ⟨ie, de, rfl⟩ := commitFlags_value hcommit
    exact ⟨_, ie, de, rfl⟩

theorem exec_frame {i : Instr} {s t : State} (h : exec i s = .next t) : Frame i.evex.dest s t := by
  obtain ⟨x, ie, de, rfl⟩ := exec_next_shape h
  exact ⟨fun r hr => State.setVreg_vreg_other s _ r x hr, rfl, rfl, rfl, rfl, rfl, fun _ => rfl, setFlags_other ..⟩

theorem exec_mem {i : Instr} {s t : State} (h : exec i s = .next t) : t.mem = s.mem := by
  obtain ⟨x, ie, de, rfl⟩ := exec_next_shape h
  rfl

theorem exec_pc {i : Instr} {s t : State} (h : exec i s = .next t) : t.pc = s.pc + BitVec.ofNat 64 (instrLength i) := by
  obtain ⟨x, ie, de, rfl⟩ := exec_next_shape h
  rfl

theorem exec_mxcsr_mono {i : Instr} {s t : State} (h : exec i s = .next t) : s.mxcsr &&& t.mxcsr = s.mxcsr := by
  obtain ⟨x, ie, de, rfl⟩ := exec_next_shape h
  exact and_setFlags ..

/-- The lengths of 30_encoding.md R71. -/
theorem instrLength_cases (i : Instr) :
    instrLength i = 7 ∨ instrLength i = 8 ∨ instrLength i = 9 ∨ instrLength i = 11 ∨ instrLength i = 12 := by
  cases i with
  | xmmReg | ymmReg | zmmReg | zmmSae | udReg => exact .inl rfl
  | xmmMem00 e a | xmmBcst00 e a | ymmMem00 e a | ymmBcst00 e a | zmmMem00 e a | zmmBcst00 e a | udMem00 e b a =>
    exact (Laws.Encoding.xmmMem00 e a).2
  | xmmMem01 e a | xmmBcst01 e a | ymmMem01 e a | ymmBcst01 e a | zmmMem01 e a | zmmBcst01 e a | udMem01 e b a =>
    exact (Laws.Encoding.xmmMem01 e a).2
  | xmmMem10 e a | xmmBcst10 e a | ymmMem10 e a | ymmBcst10 e a | zmmMem10 e a | zmmBcst10 e a | udMem10 e b a =>
    exact (Laws.Encoding.xmmMem10 e a).2

/-- A step that goes on has executed an instruction. -/
theorem step_eq_next {s t : State} : step s = .next t ↔ ∃ i, fetchInstr s = .next i ∧ exec i s = .next t :=
  andThen_eq_next

/-- Settles O51: the frame of the executed instruction. -/
theorem stepFrame : Obligations.StepFrame := by
  intro s t h
  obtain ⟨i, _, h⟩ := step_eq_next.1 h
  exact ⟨⟨_, exec_frame h⟩, exec_mem h, exec_mxcsr_mono h, instrLength i, instrLength_cases i, exec_pc h⟩

/-- Settles O52: memory is equal, and the reserved bits of MXCSR are outside the flags. -/
theorem stepKeepsInv : Obligations.StepKeepsInv := by
  intro s t ⟨hmem, hreserved⟩ h
  obtain ⟨⟨_, _, _, _, _, _, _, _, hmxcsr⟩, hsame, _⟩ := stepFrame s t h
  exact ⟨hsame ▸ hmem, (mxcsrReserved_congr hmxcsr).trans hreserved⟩

/-- Settles O53: the reset memory lists nothing, and 1F80H has no bit above 12. -/
theorem resetMeetsInv : Obligations.ResetMeetsInv := ⟨reset_mem_wf, by decide⟩

/-- Settles O55: the frame, at the destination of the instruction that the bytes decode to. -/
theorem onlyTheDestinationChanges : Obligations.OnlyTheDestinationChanges := by
  intro s t bs i r hbytes hdec h hr
  have hm : s.ctl.mode ≠ .bits32 := fun hm => by
    obtain ⟨j, _, hexec⟩ := step_eq_next.1 h
    cases (exec_bits32 hm j).symm.trans hexec
  rw [step_of_bytesAt hm hbytes hdec] at h
  obtain ⟨hother, _⟩ := exec_frame h
  exact hother r hr

/-! ## Runs (70_reset_and_hazards.md R187) -/

theorem runEnds_zero {s t : State} : RunEnds 0 s t ↔ s = t :=
  ⟨fun h => Host.Outcome.next.inj h, congrArg _⟩

theorem run_succ_eq_next (M : Host.Core) {n : Nat} {s t : M.State} :
    M.run (n + 1) s = .next t ↔ ∃ u, M.step s = .next u ∧ M.run n u = .next t := by
  rw [Host.Core.run]
  cases M.step s <;> simp

/-- A run of `n + 1` instructions is a step that goes on and a run of `n`. -/
theorem runEnds_succ {n : Nat} {s t : State} : RunEnds (n + 1) s t ↔ ∃ u, step s = .next u ∧ RunEnds n u t :=
  run_succ_eq_next core

/-- Settles O54: by induction on the number of instructions, each of which has the frame of a step. -/
theorem runFrame : Obligations.RunFrame := by
  intro n
  induction n with
  | zero =>
    intro s t h
    obtain rfl := runEnds_zero.1 h
    exact ⟨⟨[], by simp⟩, BitVec.and_self, rfl, rfl, rfl, rfl, rfl, rfl, rfl⟩
  | succ n ih =>
    intro s t h
    obtain ⟨u, hstep, hrun⟩ := runEnds_succ.1 h
    obtain ⟨⟨_, _, hk, hgpr, hrflags, hctl, hplat, _, hother⟩, hmem, hset, len, hlen, hpc⟩ := stepFrame s u hstep
    obtain ⟨⟨lens, hlength, hlens, hpc'⟩, hset', hother', hk', hgpr', hrflags', hctl', hmem', hplat'⟩ := ih u t hrun
    refine ⟨⟨len :: lens, by simp [hlength], by simpa using ⟨hlen, hlens⟩, ?pc⟩, ?set, hother'.trans hother,
      hk'.trans hk, hgpr'.trans hgpr, hrflags'.trans hrflags, hctl'.trans hctl, hmem'.trans hmem, hplat'.trans hplat⟩
    case pc => rw [hpc', hpc, List.sum_cons, BitVec.ofNat_add, BitVec.add_assoc]
    case set =>
      calc s.mxcsr &&& t.mxcsr = s.mxcsr &&& (u.mxcsr &&& t.mxcsr) := by rw [← BitVec.and_assoc, hset]
        _ = s.mxcsr := by rw [hset', hset]

end Sys2Proof.Machine
end

section
/-! What stops a row before its operand is read (30_encoding.md section 7; 60_exceptions.md sections 1 and 2): the other
reserved encodings, features and enablement, the immediate's high bits, CR0.TS. -/

namespace Sys2Proof

/-! ## Fields of P2 that a decoded row keeps (R75, R85) -/

/-- `L'L` = 11 outside the `{sae}` form selects a reserved row (R91). -/
theorem OperandRow.rowView_eq_none {p0 p1 p2 modrm : Byte} {bs : List Byte} {i : Instr} {s : Machine.State}
    (h : OperandRow p0 p1 p2 modrm bs i) (hll : p2.extractLsb' 5 2 = 3#2)
    (hsae : ¬ (modrm.extractLsb' 6 2 = 3#2 ∧ p2.getLsbD 4 = true)) : Safety.rowView s i = none := by
  have hnone : lengthOf (p2.extractLsb' 5 2) = none := by rw [hll]; rfl
  cases h with
  | reg hmod imm8 =>
    have hb : p2.getLsbD 4 = false := by simpa [hmod] using hsae
    rw [hnone, hb]
    rfl
  | mem00 | mem01 | mem10 =>
    rw [hnone]
    cases p2.getLsbD 4 <;> rfl

end Sys2Proof

namespace Sys2Proof.Machine

open Sys2Proof.Safety

/-- Settles O17: the first two leave a reserved field that is not legal, the third selects a reserved row. -/
theorem otherReservedEncodingsRaiseUd : Obligations.OtherReservedEncodingsRaiseUd := by
  intro p0 p1 p2 modrm bs rest i s hdec hm hreserved
  obtain ⟨_, _, _, _, _, hops⟩ := decode_payload_eq_ok.1 hdec
  obtain ⟨imm8, he⟩ := evex_of_decodeOperands hops
  rcases hreserved with hvp | ⟨hz, haaa⟩ | ⟨hll, hsae⟩
  · refine exec_ud_of_not_fieldsLegal hm fun ⟨_, hlegal, _⟩ => ?_
    rw [he] at hlegal
    cases hvp.symm.trans hlegal
  · refine exec_ud_of_not_fieldsLegal hm fun ⟨_, _, hlegal⟩ => hlegal ?_
    rw [he]
    exact ⟨hz, haaa⟩
  · rw [exec_of_rowView_none ((operandRow_of_decode hdec).rowView_eq_none hll hsae), reservedLength_ud hm]

/-- Settles O18: each reserved row is `reservedLength`. -/
theorem reservedRowsAlwaysStop : Obligations.ReservedRowsAlwaysStop := by
  intro e s hm
  exact ⟨fun _ => reservedLength_ud hm, fun _ _ => reservedLength_ud hm, fun _ _ => reservedLength_ud hm,
    fun _ _ => reservedLength_ud hm⟩

/-! ## The checks after the mode's -/

section Checks
variable {vl : VL} {e : Evex} {s : State}

/-- A `#UD` check in front of a `#UD` changes nothing. -/
theorem udUnless_andThen_ud {α : Type} {b : Bool} {f : Unit → Result α} (hf : f () = .fault .invalidOpcode) :
    andThen (udUnless b) f = .fault .invalidOpcode := by
  cases b
  · rfl
  · exact hf

theorem udUnless_false_andThen {α : Type} {b : Bool} {f : Unit → Result α} (hb : b = false) :
    andThen (udUnless b) f = .fault .invalidOpcode := by
  rw [hb]
  rfl

theorem checks_ud_of_not_enabled (hm : s.ctl.mode ≠ .bits32)
    (h : featureOk vl s.ctl = false ∨ enableOk s.ctl = false) : checks vl e s = .fault .invalidOpcode := by
  refine modeCheck_andThen_ud hm (udUnless_andThen_ud ?_)
  rcases h with hfeature | henable
  · exact udUnless_false_andThen hfeature
  · exact udUnless_andThen_ud (udUnless_false_andThen henable)

theorem checks_ud_of_imm (hm : s.ctl.mode ≠ .bits32) (h : immCheck s.plat.immHi e.imm8 = .fault .invalidOpcode) :
    checks vl e s = .fault .invalidOpcode := by
  refine modeCheck_andThen_ud hm (udUnless_andThen_ud (udUnless_andThen_ud (udUnless_andThen_ud ?_)))
  rw [h, andThen_fault]

/-- The features and enablement bits that the launch premise names are those that are checked. -/
theorem vectorStateEnabled_iff :
    VectorStateEnabled vl s ↔ featureOk vl s.ctl = true ∧ enableOk s.ctl = true ∧ s.ctl.ts = false := by
  simp only [VectorStateEnabled, featureOk, enableOk, Control.xcr0Avx, Control.xcr0Avx512, Bool.and_eq_true,
    Bool.or_eq_true, beq_iff_eq]
  tauto

/-- Once no `#UD` condition holds, the immediate and then CR0.TS decide (R95, R159). -/
theorem checks_of_no_ud (hm : Mode64 s) (he : FieldsLegal e) (hfeature : featureOk vl s.ctl = true)
    (henable : enableOk s.ctl = true) :
    checks vl e s = andThen (immCheck s.plat.immHi e.imm8) fun _ => tsCheck s.ctl := by
  rw [checks, modeCheck_eq_next.2 hm, reservedOk_iff.2 he, hfeature, henable]
  rfl

end Checks

/-- Settles O19: each missing bit makes the check of the features or that of the enablement fail. -/
theorem missingEnablementRaisesUd : Obligations.MissingEnablementRaisesUd := by
  intro i s v hm hv hmissing
  rw [exec_eq_vgetmantpd hv, vgetmantpd, checks_ud_of_not_enabled hm, andThen_fault]
  rcases hmissing with h | ⟨hvl, h⟩ | h | h | h
  · exact .inl (by simp [featureOk, h])
  · exact .inl (by simp [featureOk, h, hvl])
  · exact .inr (by simp [enableOk, h])
  · exact .inr (by simp [enableOk, Control.xcr0Avx, h])
  · exact .inr (by simp [enableOk, Control.xcr0Avx512, h])

/-- Settles O20: the checks before CR0.TS do not see it. -/
theorem taskSwitchedRaisesNm : Obligations.TaskSwitchedRaisesNm := by
  intro i s v hv hts ⟨hm, he, henabled, himm⟩
  obtain ⟨hfeature, henable, _⟩ := vectorStateEnabled_iff.1 henabled
  rw [exec_eq_vgetmantpd hv, vgetmantpd, checks_of_no_ud (s := s) hm he hfeature henable,
    immCheck_eq_next (s := s).2 himm, andThen_next,
    tsCheck, hts, if_pos rfl, raise_eq, andThen_fault]

/-! ## The immediate (R83, R84) -/

/-- The two control fields lie in `imm8[3:0]`. -/
theorem controls_of_low {x y : Byte} (h : x.extractLsb' 0 4 = y.extractLsb' 0 4) :
    x.extractLsb' 2 2 = y.extractLsb' 2 2 ∧ x.extractLsb' 0 2 = y.extractLsb' 0 2 := by
  have hsc : ∀ z : Byte, z.extractLsb' 2 2 = (z.extractLsb' 0 4).extractLsb' 2 2 := fun z =>
    (BitVec.extractLsb'_extractLsb'_of_le (by decide)).symm
  have hiv : ∀ z : Byte, z.extractLsb' 0 2 = (z.extractLsb' 0 4).extractLsb' 0 2 := fun z =>
    (BitVec.extractLsb'_extractLsb'_of_le (by decide)).symm
  rw [hsc x, hsc y, hiv x, hiv y, h]
  exact ⟨rfl, rfl⟩

theorem immCheck_ignore (imm8 : Byte) : immCheck .ignore imm8 = .next () := by
  unfold immCheck
  split <;> rfl

/-- Under the policy `ignore` a row sees the low four bits of the immediate only. -/
theorem vgetmantpd_imm {vl : VL} {sae : Bool} {src : Source} {e : Evex} {len : Nat} {s : State} {b : Byte}
    (hpolicy : s.plat.immHi = .ignore) (hb : b.extractLsb' 0 4 = e.imm8.extractLsb' 0 4) :
    vgetmantpd vl sae src { e with imm8 := b } len s = vgetmantpd vl sae src e len s := by
  obtain ⟨hsc, hiv⟩ := controls_of_low hb
  have hlanes : lanes s { e with imm8 := b } vl = lanes s e vl := by
    funext ts
    simp only [lanes, lane, mantOf, signControl, interval, hsc, hiv]
  simp only [vgetmantpd, checks, execute, reservedOk, hpolicy, immCheck_ignore, hlanes]

theorem rowView_withImm (b : Byte) (i : Instr) (s : State) : rowView s (withImm b i) = rowView s i := by
  cases i <;> rfl

theorem instrLength_withImm (b : Byte) (i : Instr) : instrLength (withImm b i) = instrLength i := by
  cases i <;> rfl

theorem evex_withImm (b : Byte) (i : Instr) : (withImm b i).evex = { i.evex with imm8 := b } := by
  cases i <;> rfl

/-- Settles O21: by the policy, at the check of the immediate. -/
theorem immHighBitsPolicy : Obligations.ImmHighBitsPolicy := by
  intro i s v hv himm
  refine ⟨fun hpolicy hm he henabled => ?refuse, fun hpolicy hm => ?ud, fun hpolicy => ?ignore⟩
  case refuse =>
    obtain ⟨hfeature, henable, _⟩ := vectorStateEnabled_iff.1 henabled
    rw [exec_eq_vgetmantpd hv, vgetmantpd, checks_of_no_ud hm he hfeature henable, hpolicy, immCheck, if_neg himm,
      refuse_eq, andThen_refused, andThen_refused]
  case ud =>
    rw [exec_eq_vgetmantpd hv, vgetmantpd, checks_ud_of_imm hm, andThen_fault]
    rw [hpolicy, immCheck, if_neg himm, raise_eq]
  case ignore =>
    have hlow : (i.evex.imm8 &&& 0x0F#8).extractLsb' 0 4 = i.evex.imm8.extractLsb' 0 4 := by
      rw [BitVec.extractLsb'_and]
      exact BitVec.and_allOnes
    rw [exec_eq_vgetmantpd hv, exec_eq_vgetmantpd ((rowView_withImm ..).trans hv), evex_withImm, instrLength_withImm,
      vgetmantpd_imm hpolicy hlow]

end Sys2Proof.Machine
end

section
/-! Each row completes with its result and its frame (40_vgetmantpd.md sections 3 and 4): one theorem over the row's
view, read off at each row's own source. -/

namespace Sys2Proof.Machine

open Sys2Proof.Safety

/-! ## Completion by the row's view -/

section Completion
variable {i : Instr} {s t : State} {v : RowView}

/-- Everything of a completed row outside the `{sae}` form (R120, R122, R127, R128). -/
theorem exec_completes_with (hv : rowView s i = some v) (hsae : v.sae = false) (hrun : Runnable v.vl i.evex s)
    (hreadable : ∀ k, k < vlElements v.vl → LaneActive s i.evex k → ElementReadable s v.src k)
    (hmasked : SignalsMasked v.vl (elementValue s v.src) i.evex s) :
    Completes v.vl (elementValue s v.src) i.evex (instrLength i) s (exec i s) := by
  obtain ⟨t, h⟩ := exec_completes hv hrun hreadable hmasked
  exact ⟨t, h, exec_lanesWritten hv h, exec_upperZero hv h, exec_flagsSet hv hsae h, exec_pc h, exec_frame h⟩

/-- Under `{sae}` the flags are committed whatever is signalled, and MXCSR is as before (R126, R127). -/
theorem exec_sae_mxcsr (hv : rowView s i = some v) (hsae : v.sae = true) (h : exec i s = .next t) :
    t.mxcsr = s.mxcsr := by
  obtain ⟨_, ts, m, _, hcommit, rfl⟩ := (exec_eq_next hv).1 h
  rcases commitFlags_eq_next.1 hcommit with ⟨_, rfl⟩ | ⟨hsae', _⟩
  · rfl
  · cases hsae.symm.trans hsae'

theorem exec_sae_completes (hv : rowView s i = some v) (hsae : v.sae = true) (hrun : Runnable v.vl i.evex s)
    (hreadable : ∀ k, k < vlElements v.vl → LaneActive s i.evex k → ElementReadable s v.src k) :
    ∃ t, exec i s = .next t := by
  obtain ⟨ts, hread⟩ := exists_readSource hreadable
  exact ⟨_, (exec_eq_next hv).2 ⟨hrun, ts, s.mxcsr, hread, commitFlags_eq_next.2 (.inl ⟨hsae, rfl⟩), rfl⟩⟩

/-- A row whose active lanes signal nothing leaves MXCSR as it was. -/
theorem exec_quiet_mxcsr (hv : rowView s i = some v) (h : exec i s = .next t)
    (hie : ¬ SignalsInvalid v.vl (elementValue s v.src) i.evex s)
    (hde : ¬ SignalsDenormal v.vl (elementValue s v.src) i.evex s) : t.mxcsr = s.mxcsr := by
  obtain ⟨_, ts, m, hread, hcommit, rfl⟩ := (exec_eq_next hv).1 h
  rw [Bool.eq_false_iff.2 (mt (lanes_any_ie hread).1 hie), Bool.eq_false_iff.2 (mt (lanes_any_de hread).1 hde)] at hcommit
  rcases commitFlags_eq_next.1 hcommit with ⟨_, rfl⟩ | ⟨_, _, rfl⟩
  · rfl
  · simp [setFlags]

end Completion

/-- A register source can always be read. -/
theorem elementReadable_reg (s : State) (r : VReg) (k : Nat) : ElementReadable s (.reg r) k := by
  rintro p ⟨⟩

section Sources
variable {i : Instr} {s : State} {vl : VL} {r : VReg} {seg : Segment} {ea : Word}

theorem completes_reg (hv : rowView s i = some ⟨vl, false, .reg r⟩) (hrun : Runnable vl i.evex s)
    (hmasked : SignalsMasked vl (double (s.vreg r)) i.evex s) :
    Completes vl (double (s.vreg r)) i.evex (instrLength i) s (exec i s) :=
  exec_completes_with hv rfl hrun (fun k _ _ => elementReadable_reg s r k) hmasked

theorem memoryRowCompletes (hv : rowView s i = some ⟨vl, false, .mem seg ea⟩) :
    MemoryRowCompletes vl i.evex ea (instrLength i) s (exec i s) := by
  intro hrun hreadable hmasked
  refine exec_completes_with hv rfl hrun (fun k hk ha => ?_) hmasked
  rintro p ⟨⟩
  exact hreadable k hk ha

theorem broadcastRowCompletes (hv : rowView s i = some ⟨vl, false, .bcst seg ea⟩) :
    BroadcastRowCompletes vl i.evex ea (instrLength i) s (exec i s) := by
  intro hrun hreadable hmasked
  refine exec_completes_with hv rfl hrun (fun k hk ha => ?_) hmasked
  rintro p ⟨⟩
  exact hreadable k hk ha

end Sources

/-! ## The rows (R123 to R126) -/

/-- Settles O22: the 128-bit register row. -/
theorem xmmRegisterRowCompletes : Obligations.XmmRegisterRowCompletes :=
  fun e src _ => completes_reg (i := .xmmReg e src) rfl

/-- Settles O23: the 256-bit register row. -/
theorem ymmRegisterRowCompletes : Obligations.YmmRegisterRowCompletes :=
  fun e src _ => completes_reg (i := .ymmReg e src) rfl

/-- Settles O24: the 512-bit register row. -/
theorem zmmRegisterRowCompletes : Obligations.ZmmRegisterRowCompletes :=
  fun e src _ => completes_reg (i := .zmmReg e src) rfl

/-- Settles O25: the `{sae}` row commits its flags without looking at the mask bits. -/
theorem saeRowCompletes : Obligations.SaeRowCompletes := by
  intro e src s hrun
  have hv : rowView s (.zmmSae e src) = some ⟨.v512, true, .reg src⟩ := rfl
  obtain ⟨t, h⟩ := exec_sae_completes hv rfl hrun fun k _ _ => elementReadable_reg s src k
  exact ⟨t, h, exec_lanesWritten hv h, exec_sae_mxcsr hv rfl h, exec_pc h, exec_frame h⟩

/-- Settles O26: the three 128-bit rows with a full-width operand. -/
theorem xmmMemoryRowsComplete : Obligations.XmmMemoryRowsComplete := fun e _ =>
  ⟨fun a => memoryRowCompletes (i := .xmmMem00 e a) rfl, fun a => memoryRowCompletes (i := .xmmMem01 e a) rfl,
    fun a => memoryRowCompletes (i := .xmmMem10 e a) rfl⟩

/-- Settles O27: the three 256-bit rows with a full-width operand. -/
theorem ymmMemoryRowsComplete : Obligations.YmmMemoryRowsComplete := fun e _ =>
  ⟨fun a => memoryRowCompletes (i := .ymmMem00 e a) rfl, fun a => memoryRowCompletes (i := .ymmMem01 e a) rfl,
    fun a => memoryRowCompletes (i := .ymmMem10 e a) rfl⟩

/-- Settles O28: the three 512-bit rows with a full-width operand. -/
theorem zmmMemoryRowsComplete : Obligations.ZmmMemoryRowsComplete := fun e _ =>
  ⟨fun a => memoryRowCompletes (i := .zmmMem00 e a) rfl, fun a => memoryRowCompletes (i := .zmmMem01 e a) rfl,
    fun a => memoryRowCompletes (i := .zmmMem10 e a) rfl⟩

/-- Settles O29: the three 128-bit broadcast rows. -/
theorem xmmBroadcastRowsComplete : Obligations.XmmBroadcastRowsComplete := fun e _ =>
  ⟨fun a => broadcastRowCompletes (i := .xmmBcst00 e a) rfl, fun a => broadcastRowCompletes (i := .xmmBcst01 e a) rfl,
    fun a => broadcastRowCompletes (i := .xmmBcst10 e a) rfl⟩

/-- Settles O30: the three 256-bit broadcast rows. -/
theorem ymmBroadcastRowsComplete : Obligations.YmmBroadcastRowsComplete := fun e _ =>
  ⟨fun a => broadcastRowCompletes (i := .ymmBcst00 e a) rfl, fun a => broadcastRowCompletes (i := .ymmBcst01 e a) rfl,
    fun a => broadcastRowCompletes (i := .ymmBcst10 e a) rfl⟩

/-- Settles O31: the three 512-bit broadcast rows. -/
theorem zmmBroadcastRowsComplete : Obligations.ZmmBroadcastRowsComplete := fun e _ =>
  ⟨fun a => broadcastRowCompletes (i := .zmmBcst00 e a) rfl, fun a => broadcastRowCompletes (i := .zmmBcst01 e a) rfl,
    fun a => broadcastRowCompletes (i := .zmmBcst10 e a) rfl⟩

/-- Settles O38: without an active lane every element is vacuously readable and nothing is signalled. -/
theorem noActiveLaneReadsNothing : Obligations.NoActiveLaneReadsNothing := by
  intro i s v hv hrun hinactive
  have hie : ¬ SignalsInvalid v.vl (elementValue s v.src) i.evex s := fun ⟨k, hk, ha, _⟩ => hinactive k hk ha
  have hde : ¬ SignalsDenormal v.vl (elementValue s v.src) i.evex s := fun ⟨k, hk, ha, _⟩ => hinactive k hk ha
  obtain ⟨t, h⟩ := exec_completes hv hrun (fun k hk ha => absurd ha (hinactive k hk))
    ⟨fun hs => absurd hs hie, fun hs => absurd hs hde⟩
  refine ⟨t, h, exec_quiet_mxcsr hv h hie hde, exec_frame h, fun k hk => ?_⟩
  obtain ⟨_, hzero, hkept⟩ := exec_lanesWritten hv h k hk
  cases hz : i.evex.z with
  | true => exact hzero (hinactive k hk) hz
  | false => exact hkept (hinactive k hk) hz

/-- Settles O39: both rows read the same register and compute the same lanes; only the flags are committed apart. -/
theorem saeResultsEqualRegisterRow : Obligations.SaeResultsEqualRegisterRow := by
  intro e src s t u ht hu
  have hvt : rowView s (.zmmReg e src) = some ⟨.v512, false, .reg src⟩ := rfl
  have hvu : rowView s (.zmmSae e src) = some ⟨.v512, true, .reg src⟩ := rfl
  have hmxcsr := exec_sae_mxcsr hvu rfl hu
  obtain ⟨_, ts, m, hread, _, rfl⟩ := (exec_eq_next hvt).1 ht
  obtain ⟨_, ts', m', hread', _, rfl⟩ := (exec_eq_next hvu).1 hu
  obtain rfl : ts = ts' := Host.Outcome.next.inj (hread.symm.trans hread')
  obtain rfl : m' = s.mxcsr := hmxcsr
  rfl

end Sys2Proof.Machine
end

section
/-! What stops a row at its operand (20_memory.md section 3, 60_exceptions.md sections 1 and 2): a read that faults, a
device region, and an exception that is not masked. -/

namespace Sys2Proof.Machine

open Sys2Proof.Safety

/-! ## One 8-byte read (R50, R56, R57) -/

section Read
variable {s : State} {acc : Access} {seg : Segment} {a : Word} {n : Nat} {f : Fault} {q : Refusal}

theorem memFault_of_not_canonical (h : ∃ j, j < n ∧ canonical s.plat.vaBits (a + BitVec.ofNat 64 j) = false) :
    memFault s acc seg a n = some (segmentFault seg) :=
  if_pos (by simpa [byteAddrs] using h)

theorem memFault_of_not_permitted
    (hcanonical : ∀ j, j < n → canonical s.plat.vaBits (a + BitVec.ofNat 64 j) = true)
    (h : ∃ j, j < n ∧ permitted s.plat.map acc (a + BitVec.ofNat 64 j) = false) :
    memFault s acc seg a n = some .pageFault :=
  (if_neg (by simpa [byteAddrs] using hcanonical)).trans (if_pos (by simpa [byteAddrs] using h))

/-- What an 8-byte read can do: the fault of the parameter MemFault, the refusal of a device region, or the value. -/
theorem memReadDouble_cases (s : State) (seg : Segment) (a : Word) :
    (∃ f, memFault s .dataRead seg a 8 = some f ∧ memReadDouble s seg a = .fault f) ∨
    (memFault s .dataRead seg a 8 = none ∧ (∃ j, j < 8 ∧ inDevice s.plat.map (a + BitVec.ofNat 64 j) = true) ∧
      memReadDouble s seg a = .refused .deviceMemory) ∨
    (memFault s .dataRead seg a 8 = none ∧ (∀ j, j < 8 → inDevice s.plat.map (a + BitVec.ofNat 64 j) = false) ∧
      memReadDouble s seg a = .next (doubleAt s a)) := by
  rcases memRead_cases s .dataRead seg a 8 with ⟨f, hf, hread⟩ | ⟨hf, ⟨x, hx, hdevice⟩, hread⟩ | ⟨hf, hordinary, hread⟩
  · exact .inl ⟨f, hf, by rw [memReadDouble, hread, andThen_fault]⟩
  · obtain ⟨j, hj, rfl⟩ := List.mem_map.1 hx
    exact .inr (.inl ⟨hf, ⟨j, List.mem_range.1 hj, hdevice⟩, by rw [memReadDouble, hread, andThen_refused]⟩)
  · obtain ⟨x, hvalue⟩ : ∃ x, memReadDouble s seg a = .next x := ⟨_, andThen_eq_next.2 ⟨_, hread, rfl⟩⟩
    exact .inr (.inr ⟨hf, byteAddrs_forall.1 hordinary, hvalue.trans (congrArg _ (memReadDouble_eq_next hvalue))⟩)

theorem memReadDouble_eq_fault : memReadDouble s seg a = .fault f ↔ memFault s .dataRead seg a 8 = some f := by
  rcases memReadDouble_cases s seg a with ⟨g, hf, hread⟩ | ⟨hf, _, hread⟩ | ⟨hf, _, hread⟩ <;> simp [hf, hread]

theorem memReadDouble_eq_refused :
    memReadDouble s seg a = .refused q ↔ q = .deviceMemory ∧ memFault s .dataRead seg a 8 = none ∧
      ∃ j, j < 8 ∧ inDevice s.plat.map (a + BitVec.ofNat 64 j) = true := by
  rcases memReadDouble_cases s seg a with ⟨g, hf, hread⟩ | ⟨hf, hdevice, hread⟩ | ⟨hf, hordinary, hread⟩
  · simp [hf, hread]
  · exact ⟨fun h => ⟨(Host.Outcome.refused.inj (hread.symm.trans h)).symm, hf, hdevice⟩, fun ⟨hq, _⟩ => hq ▸ hread⟩
  · simp only [hread, reduceCtorEq, false_iff, not_and, not_exists]
    exact fun _ _ j hj => ne_true_of_eq_false (hordinary j hj)

end Read

/-- Settles O36: the order of the parameter MemFault, and the value of a read that does not fault. -/
theorem elementFaultKinds : Obligations.ElementFaultKinds := by
  refine fun s seg a => ⟨fun h => ?_, fun hcanonical h => ?_, memReadDouble_of_readable⟩
  · rw [memReadDouble_eq_fault, memFault_of_not_canonical h]
    cases seg <;> rfl
  · rw [memReadDouble_eq_fault, memFault_of_not_permitted hcanonical h]

/-! ## The source's elements (40_vgetmantpd.md R121) -/

section Source
variable {s : State} {src : Source} {k : Nat} {f : Fault} {q : Refusal}

theorem sourceElement_of_addr {p : Segment × Word} (h : elementAddr src k = some p) :
    sourceElement s src k = memReadDouble s p.1 p.2 := by
  cases src <;> cases h <;> rfl

theorem sourceElement_eq_fault :
    sourceElement s src k = .fault f ↔ ∃ p, elementAddr src k = some p ∧ memFault s .dataRead p.1 p.2 8 = some f := by
  cases hp : elementAddr src k with
  | none => cases src <;> cases hp; simp [sourceElement]
  | some p => simp [sourceElement_of_addr hp, memReadDouble_eq_fault]

theorem sourceElement_eq_refused :
    sourceElement s src k = .refused q ↔ q = .deviceMemory ∧ ∃ p, elementAddr src k = some p ∧
      memFault s .dataRead p.1 p.2 8 = none ∧ ∃ j, j < 8 ∧ inDevice s.plat.map (p.2 + BitVec.ofNat 64 j) = true := by
  cases hp : elementAddr src k with
  | none => cases src <;> cases hp; simp [sourceElement]
  | some p => simp [sourceElement_of_addr hp, memReadDouble_eq_refused]

end Source

/-! ## All active elements (60_exceptions.md R159; log 11, log 15) -/

section Collect
variable {seed : Nat} {rs : List (Option (Result Word))}

theorem collectReads_of_refused {q : Refusal} (hex : some (.refused q) ∈ rs)
    (honly : ∀ q', some (.refused q') ∈ rs → q' = q) : collectReads seed rs = .refused q := by
  unfold collectReads
  cases h : rs.findSome? refusalOf with
  | none => cases List.findSome?_eq_none_iff.1 h _ hex
  | some q' =>
    obtain ⟨r, hr, hq'⟩ := List.exists_of_findSome?_eq_some h
    obtain rfl : r = some (.refused q') := by
      unfold refusalOf at hq'
      split at hq' <;> cases hq'
      rfl
    rw [honly q' hr]
    rfl

theorem collectReads_of_fault {f : Fault} (hex : some (.fault f) ∈ rs) (hno : ∀ q, some (.refused q) ∉ rs) :
    ∃ f', some (.fault f') ∈ rs ∧ collectReads seed rs = .fault f' := by
  have hnone : rs.findSome? refusalOf = none := List.findSome?_eq_none_iff.2 fun r hr => by
    unfold refusalOf
    split
    · exact absurd hr (hno _)
    · rfl
  unfold collectReads
  rw [hnone]
  cases h : rs.filterMap faultOf with
  | nil => cases List.filterMap_eq_nil_iff.1 h _ hex
  | cons e es =>
    have hmem := drawFault_mem seed e es
    rw [← h] at hmem
    obtain ⟨r, hr, hf⟩ := List.mem_filterMap.1 hmem
    obtain rfl : r = some (.fault (drawFault seed e es)) := by
      unfold faultOf at hf
      split at hf <;> cases hf
      rfl
    exact ⟨_, hr, rfl⟩

/-- What was read are the elements of the active lanes. -/
theorem some_mem_elementReads {s : State} {src : Source} {vl : VL} {e : Evex} {x : Result Word} :
    some x ∈ elementReads s src vl e.aaa ↔ ∃ k, k < vlElements vl ∧ LaneActive s e k ∧ sourceElement s src k = x := by
  simp only [elementReads, List.mem_map, List.mem_range]
  refine exists_congr fun k => and_congr_right fun _ => ?_
  by_cases ha : LaneActive s e k
  · simp [active_iff, ha]
  · simp [active_iff, ha]

end Collect

section Stops
variable {i : Instr} {s : State} {v : RowView}

/-- A row that may run stops where its source does. -/
theorem exec_of_readSource_fault (hv : rowView s i = some v) (hrun : Runnable v.vl i.evex s) {f : Fault}
    (h : readSource s v.src v.vl i.evex.aaa = .fault f) : exec i s = .fault f := by
  rw [exec_eq_vgetmantpd hv, vgetmantpd, checks_eq_next.2 hrun, andThen_next, execute, h, andThen_fault]

theorem exec_of_readSource_refused (hv : rowView s i = some v) (hrun : Runnable v.vl i.evex s) {q : Refusal}
    (h : readSource s v.src v.vl i.evex.aaa = .refused q) : exec i s = .refused q := by
  rw [exec_eq_vgetmantpd hv, vgetmantpd, checks_eq_next.2 hrun, andThen_next, execute, h, andThen_refused]

end Stops

/-- Settles O35: no read is refused, so the fault of one of them is reported. -/
theorem memoryFaultIsReported : Obligations.MemoryFaultIsReported := by
  intro i s v hv hrun hordinary ⟨k, p, hk, ha, hp, hfault⟩
  obtain ⟨f, hf⟩ := Option.isSome_iff_exists.1 hfault
  have hex : some (.fault f) ∈ elementReads s v.src v.vl i.evex.aaa :=
    some_mem_elementReads.2 ⟨k, hk, ha, sourceElement_eq_fault.2 ⟨p, hp, hf⟩⟩
  have hno : ∀ q, some (.refused q) ∉ elementReads s v.src v.vl i.evex.aaa := fun q hmem => by
    obtain ⟨k, hk, ha, hread⟩ := some_mem_elementReads.1 hmem
    obtain ⟨_, p, hp, _, j, hj, hdevice⟩ := sourceElement_eq_refused.1 hread
    cases (hordinary k p hk ha hp j hj).symm.trans hdevice
  obtain ⟨f', hmem, hcollect⟩ := collectReads_of_fault (seed := s.plat.drawSeed) hex hno
  obtain ⟨k', hk', ha', hread⟩ := some_mem_elementReads.1 hmem
  obtain ⟨p', hp', hf'⟩ := sourceElement_eq_fault.1 hread
  exact ⟨k', p', f', hk', ha', hp', hf', exec_of_readSource_fault hv hrun hcollect⟩

/-- Settles O37: a device read is the only refusal of a read, and refusals come first (log 15). -/
theorem deviceReadIsRefused : Obligations.DeviceReadIsRefused := by
  intro i s v hv hrun ⟨k, p, hk, ha, hp, hnofault, hdevice⟩
  refine exec_of_readSource_refused hv hrun (collectReads_of_refused ?_ fun q hmem => ?_)
  · exact some_mem_elementReads.2 ⟨k, hk, ha, sourceElement_eq_refused.2 ⟨rfl, p, hp, hnofault, hdevice⟩⟩
  · obtain ⟨_, _, _, hread⟩ := some_mem_elementReads.1 hmem
    obtain ⟨hq, _⟩ := sourceElement_eq_refused.1 hread
    exact hq

/-- Settles O34: the source is read, and committing the flags raises the exception (R127, R154). -/
theorem unmaskedExceptionTraps : Obligations.UnmaskedExceptionTraps := by
  intro i s v hv hsae hrun hreadable hunmasked
  obtain ⟨ts, hread⟩ := exists_readSource hreadable
  have hraise : unmasked s.mxcsr ((lanes s i.evex v.vl ts).any (·.ie)) ((lanes s i.evex v.vl ts).any (·.de)) = true :=
    Bool.not_eq_false _ ▸ mt (lanes_masked hread).1 hunmasked
  rw [exec_eq_vgetmantpd hv, vgetmantpd, checks_eq_next.2 hrun, andThen_next, execute, hread, andThen_next, commitFlags,
    hsae, if_neg Bool.false_ne_true, hraise, if_pos rfl, raise_eq, andThen_fault, simdFault]

end Sys2Proof.Machine
end

section
/-! What an instruction does not depend on (40_vgetmantpd.md section 3, 60_exceptions.md section 5): the other bits of
MXCSR, the privilege level, the other elements. -/

namespace Sys2Proof.Machine

open Sys2Proof.Safety

/-- A change of state that no view and no mode check sees changes every outcome by `f` where the shared operation's is:
a reserved row has no next state to change. -/
theorem exec_map_of_vgetmantpd {f : State → State} {i : Instr} {s s' : State} (hview : rowView s' i = rowView s i)
    (hmode : modeCheck s' = modeCheck s)
    (hrow : ∀ v, rowView s i = some v → vgetmantpd v.vl v.sae v.src i.evex (instrLength i) s' =
      mapNext f (vgetmantpd v.vl v.sae v.src i.evex (instrLength i) s)) :
    exec i s' = mapNext f (exec i s) := by
  cases hv : rowView s i with
  | none =>
    rw [exec_of_rowView_none hv, exec_of_rowView_none (hview.trans hv), reservedLength, reservedLength, hmode,
      mapNext_andThen]
    rfl
  | some v => rw [exec_eq_vgetmantpd hv, exec_eq_vgetmantpd (hview.trans hv), hrow v hv]

/-! ## The other bits of MXCSR (R120, R127, R131) -/

/-- Two values that agree under a mask agree at each of its bits. -/
theorem getLsbD_of_and_eq {w : Nat} {x y mask : BitVec w} (h : x &&& mask = y &&& mask) {i : Nat}
    (hi : mask.getLsbD i = true) : x.getLsbD i = y.getLsbD i := by
  have hbit := congrArg (·.getLsbD i) h
  simpa only [BitVec.getLsbD_and, hi, Bool.and_true] using hbit

/-- The flags of one value, set, are the same flags set in another that has the same two bits. -/
theorem or_setFlags_and {m m' : BitVec 32} (h : m &&& 3#32 = m' &&& 3#32) (ie de : Bool) :
    m ||| (setFlags m' ie de &&& 3#32) = setFlags m ie de := by
  have hflags : ((if ie then 1#32 else 0#32) ||| (if de then 2#32 else 0#32)) &&& 3#32 =
      (if ie then 1#32 else 0#32) ||| (if de then 2#32 else 0#32) := by
    revert ie de
    decide
  have habsorb : m ||| (m &&& 3#32) = m := by
    ext i
    rw [BitVec.getElem_or, BitVec.getElem_and]
    cases m[i] <;> rfl
  rw [setFlags_eq_or, setFlags_eq_or, BitVec.and_or_distrib_right, hflags, ← h, ← BitVec.or_assoc, habsorb]

/-- Committing flags to a value of MXCSR that has the same IE, DE, IM and DM. -/
theorem commitFlags_congr {m m' : BitVec 32} (h : m &&& 0x1C3#32 = m' &&& 0x1C3#32) (sae x ie de : Bool) :
    commitFlags sae x m ie de =
      andThen (commitFlags sae x m' ie de) fun m'' => .next (m ||| (m'' &&& 3#32)) := by
  have hflags : m &&& 3#32 = m' &&& 3#32 := by
    have hmask : (3#32 : BitVec 32) = 0x1C3#32 &&& 3#32 := by decide
    rw [hmask, ← BitVec.and_assoc, h, BitVec.and_assoc]
  have hunmasked : unmasked m ie de = unmasked m' ie de := by
    simp only [unmasked, mxcsrIM, mxcsrDM, getLsbD_of_and_eq h (i := 7) (by decide),
      getLsbD_of_and_eq h (i := 8) (by decide)]
  cases sae with
  | true =>
    have hsame : m ||| (m' &&& 3#32) = m := by simpa [setFlags] using or_setFlags_and hflags false false
    simp only [commitFlags, if_true, andThen_next, hsame]
  | false =>
    rw [commitFlags, commitFlags, hunmasked]
    cases unmasked m' ie de with
    | true => rfl
    | false => simp [or_setFlags_and hflags]

/-- Settles O40: DAZ decides the lanes, IM and DM the fault; MXCSR is written by `commitFlags` alone. -/
theorem otherMxcsrBitsDoNotMatter : Obligations.OtherMxcsrBitsDoNotMatter := by
  intro i s m h
  refine exec_map_of_vgetmantpd (rowView_congr rfl rfl i) rfl fun v _ => ?_
  have hlanes : lanes (s.setMxcsr m) i.evex v.vl = lanes s i.evex v.vl := by
    funext ts
    simp only [lanes, lane, mantOf, mxcsrDAZ, State.setMxcsr_mxcsr, State.setMxcsr_vreg,
      getLsbD_of_and_eq h (i := 6) (by decide)]
  simp only [vgetmantpd, execute, mapNext_andThen, mapNext_next, hlanes, State.setMxcsr_mxcsr, commitFlags_congr h,
    andThen_assoc, andThen_next]
  rfl

/-! ## The privilege level (R164) -/

/-- Settles O41: no check, read or lane takes the level, and no write touches it. -/
theorem privilegeDoesNotMatter : Obligations.PrivilegeDoesNotMatter := by
  intro i s c
  refine exec_map_of_vgetmantpd (rowView_congr rfl rfl i) rfl fun v _ => ?_
  simp only [vgetmantpd, execute, mapNext_andThen, mapNext_next]
  rfl

/-! ## The other elements (R120) -/

/-- Settles O43: the lane of a completed row, active or not, is a function of what the two rows agree on. -/
theorem elementsAreIndependent : Obligations.ElementsAreIndependent := by
  intro i j s s' t t' v v' k hv hv' hk hk' hactive hz himm hdaz hsource hdest h h'
  obtain ⟨hlane, hzero, hkept⟩ := exec_lanesWritten hv h k hk
  obtain ⟨hlane', hzero', hkept'⟩ := exec_lanesWritten hv' h' k hk'
  by_cases ha : LaneActive s i.evex k
  · obtain ⟨hsc, hiv⟩ := controls_of_low himm
    rw [hlane ha, hlane' (hactive.1 ha), mantFor, mantFor, hsc, hiv, hdaz, hsource ha]
  · have ha' := mt hactive.2 ha
    cases hz' : j.evex.z with
    | true => rw [hzero ha (hz.trans hz'), hzero' ha' hz']
    | false => rw [hkept ha (hz.trans hz'), hkept' ha' hz', hdest ha]

end Sys2Proof.Machine
end

section
/-! What the element function answers (40_vgetmantpd.md section 2, 60_exceptions.md section 1): the fields of each result,
the paths of R112 as one case distinction, and the closed forms that follow. -/

namespace Sys2Proof.Machine

open Sys2Proof.Safety

/-! ## The fields of a packed element (R111) -/

section Fields
open BitVec
variable (sign : Bool) (exp : BitVec 11) (frac : BitVec 52)

theorem fracOf_packElement : fracOf (packElement sign exp frac) = frac := extractLsb'_append_eq_right

theorem expOf_packElement : expOf (packElement sign exp frac) = exp := by
  rw [expOf, packElement, extractLsb'_append_eq_of_le (by decide), extractLsb'_append_eq_right]

theorem signOf_packElement : signOf (packElement sign exp frac) = sign := by
  rw [signOf, packElement, getLsbD_append, getLsbD_append]
  cases sign <;> rfl

variable (iv : BitVec 2)

theorem fracOf_finishMant : fracOf (finishMant sign iv exp frac) = frac := fracOf_packElement ..

theorem signOf_finishMant : signOf (finishMant sign iv exp frac) = sign := signOf_packElement ..

theorem expOf_finishMant :
    expOf (finishMant sign iv exp frac) = resultExp iv (oddExp exp) (frac.getLsbD 51) := expOf_packElement ..

/-- Step 5 of R112 gives 1022 or 1023. -/
theorem resultExp_cases (odd top : Bool) : resultExp iv odd top = 1022#11 ∨ resultExp iv odd top = 1023#11 := by
  unfold resultExp
  split_ifs <;> simp

end Fields

/-! ## Quiet NaNs (R113) -/

section Nan
variable (x : Word)

theorem signOf_qnan : signOf (qnan x) = signOf x := by
  rw [signOf, qnan, BitVec.getLsbD_or]
  exact Bool.or_false _

theorem isNan_qnan {x : Word} (h : isNan x = true) : isNan (qnan x) = true := by
  obtain ⟨hexp, _⟩ := isNan_iff.1 h
  refine isNan_iff.2 ⟨?_, fun hfrac => ?_⟩
  · rw [expOf, qnan, BitVec.extractLsb'_or]
    exact (BitVec.or_zero).trans hexp
  · have htop : (fracOf (qnan x)).getLsbD 51 = true := by
      rw [fracOf, qnan, BitVec.extractLsb'_or, BitVec.getLsbD_or]
      exact Bool.or_true _
    rw [hfrac] at htop
    cases htop

theorem fracOf_top : (fracOf x).getLsbD 51 = x.getLsbD 51 := by
  simp [fracOf]

/-- A NaN that is quiet already stays as it is. -/
theorem qnan_eq_self {x : Word} (h : (fracOf x).getLsbD 51 = true) : qnan x = x := by
  have hbit : (0x0008000000000000#64 : Word) = BitVec.twoPow 64 51 := by decide
  rw [fracOf_top] at h
  refine BitVec.eq_of_getLsbD_eq fun i _ => ?_
  rw [qnan, hbit, BitVec.getLsbD_or, BitVec.getLsbD_twoPow]
  by_cases hi : 51 = i
  · rw [← hi, h, Bool.true_or]
  · simp [hi]

end Nan

/-! ## The paths of R112 -/

section Classes
variable {x : Word} {daz : Bool}

theorem isNan_eq_false_iff : isNan x = false ↔ (expOf x = 0x7FF#11 → fracOf x = 0#52) := by
  rw [← Bool.not_eq_true, isNan_iff, not_and_not_right]

theorem isZero_eq_false_iff : isZero x daz = false ↔ ¬ (expOf x = 0#11 ∧ (fracOf x = 0#52 ∨ daz = true)) := by
  rw [← Bool.not_eq_true, isZero_iff]

theorem isSnan_iff :
    isSnan x = true ↔ expOf x = 0x7FF#11 ∧ fracOf x ≠ 0#52 ∧ (fracOf x).getLsbD 51 = false := by
  rw [isSnan, Bool.and_eq_true, isNan_iff, Bool.not_eq_true', and_assoc]

theorem isDenormal_of_isNan (h : isNan x = true) : isDenormal x daz = false := by
  simp [isDenormal, (isNan_iff.1 h).1]

theorem isDenormal_of_isInfinity (h : isInfinity x = true) : isDenormal x daz = false := by
  simp [isDenormal, (isInfinity_iff.1 h).1]

theorem isDenormal_of_isZero (h : isZero x daz = true) : isDenormal x daz = false := by
  obtain ⟨_, hfrac | hdaz⟩ := isZero_iff.1 h
  · simp [isDenormal, hfrac]
  · simp [isDenormal, hdaz]

end Classes

/-- The paths that R112 can take, with what each answers. -/
inductive MantPath (x : Word) (sc iv : BitVec 2) (daz : Bool) : MantResult → Prop where
  /-- Step 1. -/
  | nan (hn : isNan x = true) : MantPath x sc iv daz ⟨qnan x, isSnan x, false⟩
  /-- Step 2. -/
  | positiveSpecial (hn : isNan x = false) (hs : signOf x = false) (h : isZero x daz = true ∨ isInfinity x = true) :
      MantPath x sc iv daz ⟨plusOne, false, false⟩
  /-- Step 3, a special whose sign is accepted. -/
  | negativeSpecial (hn : isNan x = false) (hs : signOf x = true)
      (h : isZero x daz = true ∨ isInfinity x = true ∧ sc.getLsbD 1 = false) :
      MantPath x sc iv daz ⟨signedOne sc, false, false⟩
  /-- Step 3, a sign that is refused. -/
  | refusedSign (hn : isNan x = false) (hs : signOf x = true) (hz : isZero x daz = false) (hsc : sc.getLsbD 1 = true) :
      MantPath x sc iv daz ⟨qnanIndefinite, true, false⟩
  /-- Steps 4 to 6, on the exponent and fraction that step 4 leaves. -/
  | finite (hn : isNan x = false) (hz : isZero x daz = false) (hi : isInfinity x = false)
      (hs : signOf x = false ∨ sc.getLsbD 1 = false) (exp : BitVec 11) (frac : BitVec 52) :
      MantPath x sc iv daz ⟨finishMant (signOf x && !sc.getLsbD 0) iv exp frac, false, isDenormal x daz⟩

theorem getmant_path (x : Word) (sc iv : BitVec 2) (daz : Bool) : MantPath x sc iv daz (getmant x sc iv daz) := by
  cases hn : isNan x with
  | true => rw [getmant_nan hn]; exact .nan hn
  | false =>
  by_cases hs : signOf x = false ∨ sc.getLsbD 1 = false
  case neg =>
    obtain ⟨hneg, hsc⟩ : signOf x = true ∧ sc.getLsbD 1 = true := by simpa [not_or] using hs
    cases hz : isZero x daz with
    | true => rw [getmant_negative_zero hn hneg hz]; exact .negativeSpecial hn hneg (.inl hz)
    | false => rw [getmant_refused_sign hn hneg hz hsc]; exact .refusedSign hn hneg hz hsc
  case pos =>
    cases hz : isZero x daz with
    | true =>
      cases hneg : signOf x with
      | false => rw [getmant_positive_special hn hneg (.inl hz)]; exact .positiveSpecial hn hneg (.inl hz)
      | true => rw [getmant_negative_zero hn hneg hz]; exact .negativeSpecial hn hneg (.inl hz)
    | false =>
    cases hi : isInfinity x with
    | true =>
      cases hneg : signOf x with
      | false => rw [getmant_positive_special hn hneg (.inr hi)]; exact .positiveSpecial hn hneg (.inr hi)
      | true =>
        have hsc : sc.getLsbD 1 = false := hs.resolve_left (by simp [hneg])
        rw [getmant_negative_infinity hn hneg hz hi hsc]
        exact .negativeSpecial hn hneg (.inr ⟨hi, hsc⟩)
    | false =>
      rw [getmant_finite hn hz hi hs]
      have hpath := MantPath.finite (sc := sc) (iv := iv) hn hz hi hs
      cases hd : isDenormal x daz with
      | false =>
        rw [getmantFinite_normal hd]
        simpa only [hd] using hpath (expOf x) (fracOf x)
      | true =>
        obtain ⟨n, hn52, htop, habove⟩ := exists_top_bit (isDenormal_iff.1 hd).2.1
        rw [getmantFinite_denormal hd hn52 htop habove]
        simpa only [hd] using hpath _ _

/-- Settles O48: by the path; `qnan` and the indefinite are NaNs, the ones have exponent field 1023, and step 5 gives
the other two. -/
theorem resultExponentField : Obligations.ResultExponentField := by
  intro x sc iv daz
  have hpath := getmant_path x sc iv daz
  generalize getmant x sc iv daz = r at hpath ⊢
  cases hpath with
  | nan hn => exact .inl (isNan_qnan hn)
  | positiveSpecial => exact .inr (.inr (by decide))
  | negativeSpecial =>
    refine .inr (.inr ?_)
    rw [signedOne]
    split <;> decide
  | refusedSign => exact .inl (by decide)
  | finite => exact .inr (expOf_finishMant .. ▸ resultExp_cases ..)

theorem getLsbD_63 (x : Word) : x.getLsbD 63 = signOf x := rfl

/-- Settles O49: by the path, in terms of the classes. -/
theorem signalConditions : Obligations.SignalConditions := by
  intro x sc iv daz
  have hdenormal : (expOf x = 0#11 ∧ fracOf x ≠ 0#52 ∧ daz = false ∧ (signOf x = false ∨ sc.getLsbD 1 = false)) ↔
      isDenormal x daz = true ∧ (signOf x = false ∨ sc.getLsbD 1 = false) := by
    rw [isDenormal_iff, and_assoc, and_assoc]
  rw [← isSnan_iff, ← isNan_eq_false_iff, ← isZero_eq_false_iff, getLsbD_63, hdenormal]
  refine and_assoc.1 ⟨?_, getmant_ie_and_de⟩
  have hpath := getmant_path x sc iv daz
  generalize getmant x sc iv daz = r at hpath ⊢
  cases hpath with
  | nan hn => simp [hn, isDenormal_of_isNan hn]
  | positiveSpecial hn hs h =>
    have hd := h.elim isDenormal_of_isZero isDenormal_of_isInfinity
    simp [isSnan, hn, hs, hd]
  | negativeSpecial hn hs h =>
    rcases h with hz | ⟨hi, hsc⟩
    · simp [isSnan, hn, hz, isDenormal_of_isZero hz]
    · simp [isSnan, hn, hsc, isDenormal_of_isInfinity hi, -BitVec.getLsbD_eq_getElem]
  | refusedSign hn hs hz hsc => simp [hn, hs, hz, hsc, -BitVec.getLsbD_eq_getElem]
  | finite hn hz hi hs =>
    rcases hs with hs | hsc
    · simp [isSnan, hn, hs]
    · simp [isSnan, hn, hsc, -BitVec.getLsbD_eq_getElem]

/-- Settles O50: by the path. -/
theorem signOfResult : Obligations.SignOfResult := by
  intro x sc iv daz
  rw [getLsbD_63, getLsbD_63]
  have hpath := getmant_path x sc iv daz
  generalize getmant x sc iv daz = r at hpath ⊢
  cases hpath with
  | nan hn => rw [hn, if_pos rfl, signOf_qnan]
  | positiveSpecial hn hs h =>
    rw [hn, if_neg Bool.false_ne_true, if_pos hs]
    rfl
  | negativeSpecial hn hs h =>
    have hone : signOf (signedOne sc) = !sc.getLsbD 0 := by
      rw [signedOne]
      cases sc.getLsbD 0 <;> decide
    rcases h with hz | ⟨hi, hsc⟩
    · simp [hn, hs, hz, hone, -BitVec.getLsbD_eq_getElem]
    · simp [hn, hs, hsc, hone, -BitVec.getLsbD_eq_getElem]
  | refusedSign hn hs hz hsc =>
    have hindefinite : signOf qnanIndefinite = true := by decide
    simp [hn, hs, hz, hsc, hindefinite, -BitVec.getLsbD_eq_getElem]
  | finite hn hz hi hs =>
    rw [signOf_finishMant]
    cases hneg : signOf x with
    | false => simp [hn]
    | true =>
      have hsc : sc.getLsbD 1 = false := hs.resolve_left (by simp [hneg])
      simp [hn, hz, hsc, -BitVec.getLsbD_eq_getElem]

/-- Settles O45: the steps at their bit patterns. -/
theorem specialElements : Obligations.SpecialElements := by
  intro x sc iv daz
  refine ⟨fun hexp hfrac htop => ?snan, fun hexp htop => ?qnan, fun hx => ?posInf, fun hexp hz hs => ?posZero,
    fun hexp hz hs => ?negZero, fun hx hsc => ?negInf, fun hs hsc hn hz => ?refused⟩
  case snan => rw [getmant_nan (isNan_iff.2 ⟨hexp, hfrac⟩), isSnan_iff.2 ⟨hexp, hfrac, htop⟩, qnan]
  case qnan =>
    have hfrac : fracOf x ≠ 0#52 := fun h => by simp [h] at htop
    have hquiet : isSnan x = false := by rw [isSnan, htop, Bool.not_true, Bool.and_false]
    rw [getmant_nan (isNan_iff.2 ⟨hexp, hfrac⟩), hquiet, qnan_eq_self htop]
  case posInf =>
    subst hx
    exact getmant_positive_special (by decide) (by decide) (.inr (by decide))
  case posZero =>
    exact getmant_positive_special (isNan_eq_false_iff.2 fun h => by simp [hexp] at h) hs (.inl (isZero_iff.2 ⟨hexp, hz⟩))
  case negZero =>
    exact getmant_negative_zero (isNan_eq_false_iff.2 fun h => by simp [hexp] at h) hs (isZero_iff.2 ⟨hexp, hz⟩)
  case negInf =>
    subst hx
    exact getmant_negative_infinity (by decide) (by decide) (by simp [isZero, expOf]) (by decide) hsc
  case refused =>
    refine getmant_refused_sign (isNan_eq_false_iff.2 hn) hs (isZero_eq_false_iff.2 fun ⟨h, h'⟩ => ?_) hsc
    obtain ⟨hfrac, hdaz⟩ := hz h
    rcases h' with h' | h'
    · exact hfrac h'
    · cases hdaz.symm.trans h'

/-! ## Denormal elements (R115) -/

section Denormal
variable {f : BitVec 52} {p : Nat}

/-- A fraction whose topmost 1 is bit `p` lies in `[2^p, 2^(p+1))`. -/
theorem toNat_of_top_bit (htop : f.getLsbD p = true) (habove : ∀ q, p < q → f.getLsbD q = false) :
    2 ^ p ≤ f.toNat ∧ f.toNat < 2 ^ (p + 1) :=
  ⟨Nat.ge_two_pow_of_testBit htop, Nat.lt_pow_two_of_testBit _ fun q hq => habove q hq⟩

/-- Shifting the topmost 1 out leaves the bits below it, moved to the top. -/
theorem toNat_shift_top_out (hp : p < 52) (htop : f.getLsbD p = true) (habove : ∀ q, p < q → f.getLsbD q = false) :
    (f <<< (52 - p)).toNat = (f.toNat - 2 ^ p) * 2 ^ (52 - p) := by
  obtain ⟨hle, hlt⟩ := toNat_of_top_bit htop habove
  obtain ⟨g, hg⟩ := Nat.exists_eq_add_of_le hle
  have hgp : g < 2 ^ p := by rw [hg, pow_succ] at hlt; omega
  have hpow : 2 ^ p * 2 ^ (52 - p) = 2 ^ 52 := by rw [← pow_add, Nat.add_sub_cancel' hp.le]
  have hfits : g * 2 ^ (52 - p) < 2 ^ 52 := hpow ▸ Nat.mul_lt_mul_of_pos_right hgp (by positivity)
  rw [BitVec.toNat_shiftLeft, Nat.shiftLeft_eq, hg, Nat.add_sub_cancel_left, add_mul, hpow, Nat.add_mod_left,
    Nat.mod_eq_of_lt hfits]

/-- The exponent that the loop leaves, `E = 1023 - (52 - p)`, has the parity of `p` (R115, R118). -/
theorem parity_of_loop (hp : p < 52) :
    (((1023#11 - BitVec.ofNat 11 (52 - p)).toNat : ℤ) - 1023) % 2 = (p : ℤ) % 2 := by
  have hexp : (1023#11 - BitVec.ofNat 11 (52 - p)).toNat = 971 + p := by
    rw [BitVec.toNat_sub, BitVec.toNat_ofNat, BitVec.toNat_ofNat]
    omega
  omega

/-- The element function on a denormal, by the topmost 1 of its fraction. -/
theorem getmant_denormal {x : Word} {sc iv : BitVec 2} (hexp : expOf x = 0#11) (hp : p < 52)
    (htop : (fracOf x).getLsbD p = true) (habove : ∀ q, p < q → (fracOf x).getLsbD q = false)
    (hs : signOf x = false ∨ sc.getLsbD 1 = false) :
    getmant x sc iv false =
      ⟨finishMant (signOf x && !sc.getLsbD 0) iv (1023#11 - BitVec.ofNat 11 (52 - p)) (fracOf x <<< (52 - p)),
        false, true⟩ := by
  have hfrac : fracOf x ≠ 0#52 := fun h => by simp [h] at htop
  have hsize : 51 - p + 1 = 52 - p := by omega
  rw [getmant_finite (by simp [isNan, hexp]) (by simp [isZero, hfrac]) (by simp [isInfinity, hexp]) hs,
    getmantFinite_denormal (isDenormal_iff.2 ⟨hexp, hfrac, rfl⟩) (n := 51 - p) (by omega)
      (by rwa [show 51 - (51 - p) = p by omega]) (fun m hm => habove _ (by omega)), hsize]

end Denormal

theorem oddExp_eq_true {exp : BitVec 11} : oddExp exp = true ↔ ((exp.toNat : ℤ) - 1023) % 2 = 1 := by
  simp [oddExp]

/-- Settles O46: the loop's result, with the parity of `E` that of `p`. -/
theorem denormalElements : Obligations.DenormalElements := by
  intro x sc iv p hexp hp htop habove hs
  have hparity : oddExp (1023#11 - BitVec.ofNat 11 (52 - p)) = true ↔ p % 2 = 1 := by
    rw [oddExp_eq_true, parity_of_loop hp]
    omega
  rw [getmant_denormal hexp hp htop habove hs]
  refine ⟨?_, signOf_finishMant .., rfl, rfl, ?_⟩
  · rw [fracOf_finishMant, toNat_shift_top_out hp htop habove]
  · rw [expOf_finishMant, fracOf_finishMant, resultExp]
    simp only [hparity]

end Sys2Proof.Machine
end

section
/-! The result as a real number (40_vgetmantpd.md R116): source and result are the same mantissa at two powers of two. -/

namespace Sys2Proof.Machine

open Sys2Proof.Safety

/-- The mantissa `1.fraction`. -/
def mantissa (frac : BitVec 52) : ℚ := (2 ^ 52 + frac.toNat : ℕ) * (2 : ℚ) ^ (-52 : ℤ)

section Mantissa
variable (frac : BitVec 52)

theorem mantissa_eq : mantissa frac = 1 + frac.toNat / 2 ^ 52 := by
  rw [mantissa, zpow_neg, Nat.cast_add, add_mul, div_eq_mul_inv]
  norm_num

theorem one_le_mantissa : 1 ≤ mantissa frac := by
  rw [mantissa_eq, le_add_iff_nonneg_right]
  positivity

theorem mantissa_lt_two : mantissa frac < 2 := by
  have hlt : (frac.toNat : ℚ) / 2 ^ 52 < 1 := (div_lt_one (by positivity)).2 (mod_cast frac.isLt)
  rw [mantissa_eq]
  linarith

/-- The top fraction bit says whether the mantissa reaches 3/2. -/
theorem three_halves_le_mantissa : 3 / 2 ≤ mantissa frac ↔ frac.getLsbD 51 = true :=
  calc 3 / 2 ≤ mantissa frac ↔ (2 ^ 51 : ℚ) ≤ frac.toNat := by
        rw [mantissa_eq, ← sub_le_iff_le_add', le_div_iff₀ (by positivity),
          show (3 / 2 - 1 : ℚ) * 2 ^ 52 = 2 ^ 51 by norm_num]
    _ ↔ 2 ^ 51 ≤ frac.toNat := by norm_cast
    _ ↔ frac.getLsbD 51 = true := by rw [← BitVec.msb_eq_getLsbD_last, BitVec.msb_eq_decide, decide_eq_true_eq]

end Mantissa

/-- The magnitude of a normal element (10_state.md R24). -/
theorem abs_realValue_normal {x : Word} (hexp : expOf x ≠ 0#11) :
    |realValue x| = mantissa (fracOf x) * (2 : ℚ) ^ ((expOf x).toNat - 1023 : ℤ) := by
  have hsign : |(if signOf x then -1 else 1 : ℚ)| = 1 := by cases signOf x <;> simp
  have hscale : (2 : ℚ) ^ ((expOf x).toNat - 1075 : ℤ) = 2 ^ (-52 : ℤ) * 2 ^ ((expOf x).toNat - 1023 : ℤ) := by
    rw [← zpow_add₀ two_ne_zero]
    congr 1
    ring
  rw [realValue, if_neg hexp, abs_mul, hsign, one_mul, abs_of_nonneg (by positivity), hscale, ← mul_assoc, mantissa]

/-- The magnitude of a denormal element by the topmost 1 of its fraction: the mantissa is what the loop leaves. -/
theorem abs_realValue_denormal {x : Word} {p : Nat} (hexp : expOf x = 0#11) (hp : p < 52)
    (htop : (fracOf x).getLsbD p = true) (habove : ∀ q, p < q → (fracOf x).getLsbD q = false) :
    |realValue x| = mantissa (fracOf x <<< (52 - p)) * (2 : ℚ) ^ (p - 1074 : ℤ) := by
  have hsign : |(if signOf x then -1 else 1 : ℚ)| = 1 := by cases signOf x <;> simp
  obtain ⟨hle, _⟩ := toNat_of_top_bit htop habove
  have hshift : 2 ^ 52 + (fracOf x <<< (52 - p)).toNat = (fracOf x).toNat * 2 ^ (52 - p) := by
    have hpow : 2 ^ 52 = 2 ^ p * 2 ^ (52 - p) := by rw [← pow_add, Nat.add_sub_cancel' hp.le]
    rw [toNat_shift_top_out hp htop habove, hpow, ← add_mul, Nat.add_sub_cancel' hle]
  have hscale : (2 : ℚ) ^ (-1074 : ℤ) = 2 ^ (52 - p) * 2 ^ (-52 : ℤ) * 2 ^ (p - 1074 : ℤ) := by
    rw [← zpow_natCast, ← zpow_add₀ two_ne_zero, ← zpow_add₀ two_ne_zero]
    congr 1
    omega
  rw [realValue, if_pos hexp, abs_mul, hsign, one_mul, abs_of_nonneg (by positivity), hscale, mantissa, hshift]
  push_cast
  ring

/-- The magnitude of steps 5 and 6 on an exponent and fraction, for a source at `2^t` with the parity of `E - 1023`. -/
theorem abs_realValue_finishMant (sign : Bool) (iv : BitVec 2) {exp : BitVec 11} (frac : BitVec 52) {t : ℤ}
    (hparity : ((exp.toNat : ℤ) - 1023) % 2 = t % 2) :
    |realValue (finishMant sign iv exp frac)| = mantissa frac * (2 : ℚ) ^ resultScale iv t (mantissa frac) := by
  have hodd : oddExp exp = true ↔ t % 2 = 1 := by rw [oddExp_eq_true, hparity]
  have hscale : ((resultExp iv (oddExp exp) (frac.getLsbD 51)).toNat : ℤ) - 1023 = resultScale iv t (mantissa frac) := by
    simp only [resultExp, resultScale, hodd, three_halves_le_mantissa]
    split_ifs <;> rfl
  have hnormal : expOf (finishMant sign iv exp frac) ≠ 0#11 := by
    rw [expOf_finishMant]
    rcases resultExp_cases iv (oddExp exp) (frac.getLsbD 51) with h | h <;> rw [h] <;> decide
  rw [abs_realValue_normal hnormal, fracOf_finishMant, expOf_finishMant, hscale]

/-- Settles O47: the mantissa that steps 5 and 6 pack is the source's own, or the one that the loop of step 4 leaves. -/
theorem realValueOfResult : Obligations.RealValueOfResult := by
  intro x sc iv daz hfinite hnonzero hs
  by_cases hexp : expOf x = 0#11
  case pos =>
    obtain ⟨hfrac, rfl⟩ := hnonzero hexp
    obtain ⟨n, hn, htop, habove⟩ := exists_top_bit hfrac
    have hp : 51 - n < 52 := by omega
    have habove' : ∀ q, 51 - n < q → (fracOf x).getLsbD q = false := fun q hq => by
      by_cases hq52 : q < 52
      · simpa [show 51 - (51 - q) = q by omega] using habove (51 - q) (by omega)
      · exact BitVec.getLsbD_of_ge _ _ (by omega)
    refine ⟨mantissa (fracOf x <<< (52 - (51 - n))), ((51 - n : ℕ) : ℤ) - 1074, one_le_mantissa _, mantissa_lt_two _,
      abs_realValue_denormal hexp hp htop habove', ?_⟩
    rw [getmant_denormal hexp hp htop habove' hs]
    exact abs_realValue_finishMant _ _ _ (by rw [parity_of_loop hp]; omega)
  case neg =>
    refine ⟨mantissa (fracOf x), (expOf x).toNat - 1023, one_le_mantissa _, mantissa_lt_two _,
      abs_realValue_normal hexp, ?_⟩
    rw [getmant_finite (by simp [isNan, hfinite]) (by simp [isZero, hexp]) (by simp [isInfinity, hfinite]) hs,
      getmantFinite_normal (by simp [isDenormal, hexp])]
    exact abs_realValue_finishMant _ _ _ rfl

end Sys2Proof.Machine
end
